-- ==== Sys2Proof/Word.lean ====
section
/-! DEFINITION. The two word sizes of the block: bytes of the wire and of the storage spaces (R9, R70), and the
unsigned 32-bit words of `id`, `hz` and `req` (R21, R120). -/

namespace Sys2Proof

/-- A byte, 0..255 (R9). -/
abbrev Byte := BitVec 8

/-- A `u32` (R9): message ids, rates in hertz, operands of host operations. -/
abbrev Word := BitVec 32

end Sys2Proof
end

