-- ==== Sys2Proof/Config.lean ====
section
/-! DEFINITION. What an implementation of the block fixes (the parameters of R8) and the free values, which the spec
leaves open (R189; the one of R153 takes the state and is in Machine/Free.lean). The free values have no body: nothing can be proved about which value they are. -/

namespace Sys2Proof

/-- `RX_CURSOR_INIT` (R8, decision D5): where the parser starts reading when the transceiver is acquired. -/
inductive RxCursorInit where
  /-- `last_cur` starts at 0 -/
  | zero
  /-- `last_cur` starts at the transport's cursor -/
  | snapshot
  deriving DecidableEq, Repr

/-- `RING_INIT` and `RX_PAD` (R8, decisions D7 and D8): what the spec's unspecified contents are. -/
inductive Fill where
  /-- unspecified: a free value -/
  | any
  /-- all zero -/
  | zero
  deriving DecidableEq, Repr

/-- The parameters of R8, fixed for one instance of the block. `N` is not among them: ACQTR sets it. -/
structure Params where
  /-- `M`, bytes of the transport receive ring, at least 2 -/
  trxCap : Nat
  /-- `A` (`ASM_CAP`), bytes of the assembly buffer, at least 29 -/
  asmCap : Nat
  /-- `RING_CAP_MAX`, the largest ring an instance can create, at least 1 -/
  ringCapMax : Nat
  /-- `RX_CURSOR_INIT` -/
  rxCursorInit : RxCursorInit
  /-- `RING_INIT`, the contents of never-written slots -/
  ringInit : Fill
  /-- `RX_PAD`, the don't-care payload bytes of a received message -/
  rxPad : Fill
  deriving DecidableEq, Repr

/-- How far `M` exceeds its least value 2: OPEN in R8 (decision D23), so a constant nothing is known of (entry 2). -/
opaque Config.trxCapExtra : Nat

/-- How far `RING_CAP_MAX` exceeds its least value 1: OPEN in R8 (decision D22; entry 3). -/
opaque Config.ringCapExtra : Nat

/-- The instance the machine is reset as: the open parameters stay open, the others take R8's defaults
(entries 2 to 7). -/
def Config.params : Params where
  trxCap := Config.trxCapExtra + 2
  asmCap := 32
  ringCapMax := Config.ringCapExtra + 1
  rxCursorInit := .zero
  ringInit := .any
  rxPad := .any

/-- `BAUD_RESET` (R8, R41): "default 125 kHz". -/
def Config.baudReset : Word := 125000

/-- FREE VALUE: the `id` of never-written slot `i` under `RING_INIT` = `any` (R189; entry 6). -/
opaque Config.freeId (i : Nat) : Word

/-- FREE VALUE: `extended` of never-written slot `i` (R189; entry 6). -/
opaque Config.freeExtended (i : Nat) : Bool

/-- FREE VALUE: `remote_request` of never-written slot `i` (R189; entry 6). -/
opaque Config.freeRemote (i : Nat) : Bool

/-- FREE VALUE: `length` of never-written slot `i`, within the limit 0..8 that R21 sets every message (entry 6). -/
opaque Config.freeLength (i : Nat) : Fin 9

/-- FREE VALUE: `payload[k]` of never-written slot `i` (R189; entry 6). -/
opaque Config.freePayload (i k : Nat) : Byte

end Sys2Proof
end

