-- ==== Sys2Proof/Syntax.lean ====
section
/-! DEFINITION. The instructions: one constructor per row of spec/opcode_table.json, the six wire frames (R102) and the
eleven host operations (R119), with the operands the spec gives each. -/

namespace Sys2Proof

/-- A CAN message value (R21): a record of five fields, copied whole, with no packed image (decision D29). `length` is
0..8 in every message the block makes; the operand of SEND may hold more, and is then refused (R22, R238). -/
structure Message where
  id : Word
  extended : Bool
  remoteRequest : Bool
  length : Nat
  payload : Vector Byte 8
  deriving DecidableEq, Repr

/-- An opaque value the block never interprets: the `mode` of SETFILT, the `cb` of REGBOFF (R120, decision D24). -/
abbrev Token := List Byte

/-- One instruction of the block. A wire frame carries the bytes of its fields as they stand on the wire (the fields of
R103 to R108, digits still in ASCII): R208 has no state inside a frame, and `DEC` alone reads the digits. -/
inductive Instr where
  /-- `t`, standard data frame (R103): 3 ID digits, length digit, payload digits, terminator -/
  | stdData (id : List Byte) (len : Byte) (payload : List Byte) (cr : Byte)
  /-- `r`, standard remote frame (R104): 3 ID digits, length digit, terminator -/
  | stdRemote (id : List Byte) (len : Byte) (cr : Byte)
  /-- `T`, extended data frame (R105): 8 ID digits, length digit, payload digits, terminator -/
  | extData (id : List Byte) (len : Byte) (payload : List Byte) (cr : Byte)
  /-- `R`, extended remote frame (R106): 8 ID digits, length digit, terminator -/
  | extRemote (id : List Byte) (len : Byte) (cr : Byte)
  /-- `S`, set baud rate (R107): baud code, terminator -/
  | baudFrame (x : Byte) (cr : Byte)
  /-- `O`, bus on (R108): terminator -/
  | openFrame (cr : Byte)
  /-- ACQBM, select code 0x0 (R231) -/
  | acqbm
  /-- ACQTR, select code 0x1 (R232): the requested ring capacity -/
  | acqtr (req : Word)
  /-- SETBAUD, select code 0x2 (R233): the rate in hertz -/
  | setbaud (hz : Word)
  /-- SETFILT, select code 0x3 (R234): an opaque mode -/
  | setfilt (mode : Token)
  /-- REGBOFF, select code 0x4 (R235): an opaque handler -/
  | regboff (cb : Token)
  /-- BUSON, select code 0x5 (R236) -/
  | buson
  /-- BAUD, select code 0x6 (R237) -/
  | baud
  /-- SEND, select code 0x7 (R238): a CAN message -/
  | send (m : Message)
  /-- RXBUF, select code 0x8 (R209) -/
  | rxbuf
  /-- RXCUR, select code 0x9 (R210) -/
  | rxcur
  /-- RDSLOT, select code 0xA (R185): an index into the view -/
  | rdslot (i : Word)
  deriving DecidableEq, Repr

end Sys2Proof
end

