-- ==== Sys2Proof/WellFormed.lean ====
section
/-! DEFINITION. When an instruction is well formed: a wire frame has the format the spec gives its row (R103 to R108,
with the digits a decoder accepts, R110), and a host operation's operand fits its bytes (R120; entry 14). -/

namespace Sys2Proof

/-- One of the 22 accepted hexadecimal digits `0-9 A-F a-f` (R110). -/
def isHexDigit (b : Byte) : Bool :=
  (0x30 ≤ b.toNat && b.toNat ≤ 0x39) || (0x41 ≤ b.toNat && b.toNat ≤ 0x46) || (0x61 ≤ b.toNat && b.toNat ≤ 0x66)

/-- A length digit `'0'..'8'` (R112). -/
def isLengthDigit (b : Byte) : Bool := 0x30 ≤ b.toNat && b.toNat ≤ 0x38

/-- A baud code `'0'..'8'` (R107, R122). -/
def isBaudCode (b : Byte) : Bool := 0x30 ≤ b.toNat && b.toNat ≤ 0x38

/-- An ID field of `w` hexadecimal digits (R111). -/
def isIdField (w : Nat) (id : List Byte) : Bool := id.length == w && id.all isHexDigit

/-- A payload field: one pair of hexadecimal digits per byte the length digit announces (R113). -/
def isPayloadField (len : Byte) (payload : List Byte) : Bool :=
  payload.length == 2 * (len.toNat - 0x30) && payload.all isHexDigit

/-- The terminator CR (R101). -/
def isTerminator (b : Byte) : Bool := b == 0x0D

/-- Well-formedness, row by row. SEND's message need not be structurally valid (R22): R238 says what happens to one
that is not; its length must only fit the operand's byte. -/
def Instr.wellFormed : Instr → Bool
  | .stdData id len payload cr => isIdField 3 id && isLengthDigit len && isPayloadField len payload && isTerminator cr
  | .stdRemote id len cr => isIdField 3 id && isLengthDigit len && isTerminator cr
  | .extData id len payload cr => isIdField 8 id && isLengthDigit len && isPayloadField len payload && isTerminator cr
  | .extRemote id len cr => isIdField 8 id && isLengthDigit len && isTerminator cr
  | .baudFrame x cr => isBaudCode x && isTerminator cr
  | .openFrame cr => isTerminator cr
  | .acqbm => true
  | .acqtr _ => true
  | .setbaud _ => true
  | .setfilt _ => true
  | .regboff _ => true
  | .buson => true
  | .baud => true
  | .send m => decide (m.length < 256)
  | .rxbuf => true
  | .rxcur => true
  | .rdslot _ => true

end Sys2Proof
end

