-- ==== Sys2Proof/Decode.lean ====
section
/-! DEFINITION. Encodings: the frame codec (40_codec.md: `hexval`, `hexdig`, `parsehex`, `ENC`, `DEC`, `BAUDCH`), the
decoder and the encoder of the instructions (30_encoding.md), and the opcode table's words. -/

namespace Sys2Proof

/-! ### The codec's primitives (R141 to R143, R157) -/

/-- The terminator CR, 0x0D (R100, R101). -/
def crByte : Byte := 0x0D

/-- `hexval(b)` (R141): the value of an accepted hexadecimal digit, or `fail`. -/
def hexVal (b : Byte) : Option Nat :=
  if 0x30 ≤ b.toNat ∧ b.toNat ≤ 0x39 then some (b.toNat - 0x30)
  else if 0x41 ≤ b.toNat ∧ b.toNat ≤ 0x46 then some (b.toNat - 0x41 + 10)
  else if 0x61 ≤ b.toNat ∧ b.toNat ≤ 0x66 then some (b.toNat - 0x61 + 10)
  else none

/-- `hexdig(v)` (R142), for v in 0..15: the upper-case digit. -/
def hexDig (v : Nat) : Byte :=
  if v < 10 then BitVec.ofNat 8 (0x30 + v) else BitVec.ofNat 8 (0x41 + (v - 10))

/-- `parsehex(s)` (R143) from the value `v` read so far: the digits to the right of it, most significant first. -/
def parseHexFrom (v : Nat) : List Byte → Option Nat
  | [] => some v
  | b :: rest =>
    match hexVal b with
    | none => none
    | some d => parseHexFrom (16 * v + d) rest

/-- `parsehex(s)` (R143): every byte of the field must be a digit. -/
def parseHex (s : List Byte) : Option Nat := parseHexFrom 0 s

/-- The `w` upper-case digits of `v`, most significant first (R66, R111): digit `j` holds bits `4(w-1-j)+3 .. 4(w-1-j)`. -/
def hexDigits : Nat → Nat → List Byte
  | 0, _ => []
  | w + 1, v => hexDig (v / 16 ^ w % 16) :: hexDigits w v

/-- The nine rates and their codes (R122, R157), in hertz. -/
def baudTable : List (Word × Byte) :=
  [(10000, 0x30), (20000, 0x31), (50000, 0x32), (100000, 0x33), (125000, 0x34), (250000, 0x35), (500000, 0x36),
   (800000, 0x37), (1000000, 0x38)]

/-- `BAUDCH(hz)` (R157): the code of a rate of the table; any other value is unsupported. -/
def baudCh (hz : Word) : Option Byte := baudTable.lookup hz

/-! ### Fields of a message frame (R109 to R113) -/

/-- The command byte, from `(extended, remote_request)` (R109). -/
def commandByte : Bool → Bool → Byte
  | false, false => 0x74
  | false, true => 0x72
  | true, false => 0x54
  | true, true => 0x52

/-- R109 read backwards: `(extended, remote_request)` of a command byte; every other byte is no message frame (R118). -/
def frameKind (c : Byte) : Option (Bool × Bool) :=
  if c = 0x74 then some (false, false)
  else if c = 0x72 then some (false, true)
  else if c = 0x54 then some (true, false)
  else if c = 0x52 then some (true, true)
  else none

/-- How many ID digits a frame has (R111): 3 standard, 8 extended. -/
def idDigits (extended : Bool) : Nat := if extended then 8 else 3

/-- The length digit's byte (R112). -/
def lengthDigit (n : Nat) : Byte := BitVec.ofNat 8 (0x30 + n)

/-- The length a byte announces (R112, R150): the 8-bit difference from `'0'`, modulo 256. -/
def lengthOf (b : Byte) : Nat := (b - 0x30).toNat

/-- The two digits of each payload byte, in array order (R113). -/
def payloadDigits : List Byte → List Byte
  | [] => []
  | p :: rest => hexDigits 2 p.toNat ++ payloadDigits rest

/-- `n` payload bytes, each from a pair of digits, in order (R113); any byte that is no digit fails the frame. -/
def parsePairs : Nat → List Byte → Option (List Byte)
  | 0, _ => some []
  | n + 1, s =>
    match parseHex (s.take 2), parsePairs n (s.drop 2) with
    | some p, some rest => some (BitVec.ofNat 8 p :: rest)
    | _, _ => none

/-- A payload of eight bytes, from its bytes by index. -/
def payloadOf (f : Nat → Byte) : Vector Byte 8 := #v[f 0, f 1, f 2, f 3, f 4, f 5, f 6, f 7]

/-! ### ENC and DEC (R144, R147) -/

/-- `ENC(m)` (R144). The spec gives it no value on a message that is not structurally valid (R145): SEND refuses such a
message before it would be encoded (R238), so what stands here for one is never emitted. -/
def enc (m : Message) : List Byte :=
  [commandByte m.extended m.remoteRequest] ++ hexDigits (idDigits m.extended) m.id.toNat ++ [lengthDigit m.length]
    ++ (if m.remoteRequest then [] else payloadDigits (m.payload.toList.take m.length)) ++ [crByte]

/-- How many bytes must follow the length digit (R147 step 7, R151): the terminator, and a data frame's pairs. -/
def remainingNeeded (remote : Bool) (length : Nat) : Nat := if remote then 1 else 2 * length + 1

/-- `DEC(s)` (R147), steps 1 to 9. `pad k` is the value of the result's don't-care byte `k` (R153). -/
def dec (pad : Nat → Byte) (s : List Byte) : Option Message :=
  match s with
  | [] => none
  | c :: rest =>
    match frameKind c with
    | none => none
    | some (ext, rtr) =>
      if s.length < idDigits ext + 3 then none
      else
        match parseHex (rest.take (idDigits ext)) with
        | none => none
        | some id =>
          if 8 < lengthOf (rest.getD (idDigits ext) 0) then none
          else if s.length - (idDigits ext + 2) ≠ remainingNeeded rtr (lengthOf (rest.getD (idDigits ext) 0)) then none
          else
            match (if rtr then some [] else
                parsePairs (lengthOf (rest.getD (idDigits ext) 0)) (rest.drop (idDigits ext + 1))) with
            | none => none
            | some data =>
              some { id := BitVec.ofNat 32 id, extended := ext, remoteRequest := rtr,
                     length := lengthOf (rest.getD (idDigits ext) 0),
                     payload := payloadOf (fun k => data.getD k (pad k)) }

/-! ### Instructions from bytes -/

/-- Why bytes are no instruction. Who raises each: `decodeHost` and `decodeWire`. -/
inductive Reject where
  /-- no byte at all -/
  | empty
  /-- a select code 0xB..0xF (R119, R285(e)) -/
  | reservedSelect (code : Nat)
  /-- the first byte of a host operation is no 4-bit select code (entry 15) -/
  | notSelectCode (b : Byte)
  /-- the operand of a host operation has the wrong number of bytes, or a flag byte that is neither 0 nor 1 (entry 14) -/
  | badOperand (code : Nat)
  /-- the first byte is not the command byte of one of the six frames (R102, R118) -/
  | notCommandByte (b : Byte)
  /-- the bytes after a command byte do not divide into the fields of its frame (R103 to R108) -/
  | badFrame (b : Byte)
  deriving DecidableEq, Repr

/-- A `u32` operand, most significant byte first (entry 14). -/
def wordBytes (w : Word) : List Byte :=
  [w.extractLsb' 24 8, w.extractLsb' 16 8, w.extractLsb' 8 8, w.extractLsb' 0 8]

/-- `wordBytes` read back. -/
def wordOfBytes (b3 b2 b1 b0 : Byte) : Word := (b3 ++ b2 ++ b1 ++ b0 : BitVec 32)

/-- A flag operand: one byte, 0 or 1 (entry 14). -/
def flagByte (b : Bool) : Byte := if b then 1 else 0

/-- `flagByte` read back. -/
def flagOfByte (b : Byte) : Option Bool := if b = 0 then some false else if b = 1 then some true else none

/-- The operand bytes of a message (entry 14): id, extended, remote_request, length, payload. -/
def messageBytes (m : Message) : List Byte :=
  wordBytes m.id ++ [flagByte m.extended, flagByte m.remoteRequest, BitVec.ofNat 8 m.length] ++ m.payload.toList

/-- A host operation without operand. -/
def noOperand (code : Nat) (i : Instr) : List Byte → Except Reject Instr
  | [] => .ok i
  | _ => .error (.badOperand code)

/-- A host operation with a `u32` operand. -/
def wordOperand (code : Nat) (mk : Word → Instr) : List Byte → Except Reject Instr
  | [b3, b2, b1, b0] => .ok (mk (wordOfBytes b3 b2 b1 b0))
  | _ => .error (.badOperand code)

/-- SEND's operand, `messageBytes` read back. -/
def messageOperand (code : Nat) : List Byte → Except Reject Instr
  | [b3, b2, b1, b0, e, r, n, p0, p1, p2, p3, p4, p5, p6, p7] =>
    match flagOfByte e, flagOfByte r with
    | some ext, some rtr =>
      .ok (.send { id := wordOfBytes b3 b2 b1 b0, extended := ext, remoteRequest := rtr, length := n.toNat,
                   payload := #v[p0, p1, p2, p3, p4, p5, p6, p7] })
    | _, _ => .error (.badOperand code)
  | _ => .error (.badOperand code)

/-- The host operation of a select code and its operand bytes (R119, R120; the codes are decision D2). -/
def decodeHost : List Byte → Except Reject Instr
  | [] => .error .empty
  | c :: ops =>
    match c.toNat with
    | 0x0 => noOperand 0x0 .acqbm ops
    | 0x1 => wordOperand 0x1 .acqtr ops
    | 0x2 => wordOperand 0x2 .setbaud ops
    | 0x3 => .ok (.setfilt ops)
    | 0x4 => .ok (.regboff ops)
    | 0x5 => noOperand 0x5 .buson ops
    | 0x6 => noOperand 0x6 .baud ops
    | 0x7 => messageOperand 0x7 ops
    | 0x8 => noOperand 0x8 .rxbuf ops
    | 0x9 => noOperand 0x9 .rxcur ops
    | 0xA => wordOperand 0xA .rdslot ops
    | n => if n < 16 then .error (.reservedSelect n) else .error (.notSelectCode c)

/-- The fields of a data frame with `w` ID digits, by position (R103, R105). -/
def dataFields (c : Byte) (w : Nat) (mk : List Byte → Byte → List Byte → Byte → Instr) (rest : List Byte) :
    Except Reject Instr :=
  if rest.length < w + 2 then .error (.badFrame c)
  else .ok (mk (rest.take w) (rest.getD w 0) (rest.drop (w + 1)).dropLast (rest.getLastD 0))

/-- The fields of a remote frame with `w` ID digits, by position (R104, R106). -/
def remoteFields (c : Byte) (w : Nat) (mk : List Byte → Byte → Byte → Instr) (rest : List Byte) :
    Except Reject Instr :=
  if rest.length = w + 2 then .ok (mk (rest.take w) (rest.getD w 0) (rest.getD (w + 1) 0)) else .error (.badFrame c)

/-- The wire frame a run of bytes forms (R102 to R108), told by its command byte alone; whether its digits are digits is
`DEC`'s matter (R148, R208), not this decoder's. -/
def decodeWire : List Byte → Except Reject Instr
  | [] => .error .empty
  | c :: rest =>
    match c.toNat with
    | 0x74 => dataFields c 3 .stdData rest
    | 0x72 => remoteFields c 3 .stdRemote rest
    | 0x54 => dataFields c 8 .extData rest
    | 0x52 => remoteFields c 8 .extRemote rest
    | 0x53 =>
      match rest with
      | [x, cr] => .ok (.baudFrame x cr)
      | _ => .error (.badFrame c)
    | 0x4F =>
      match rest with
      | [cr] => .ok (.openFrame cr)
      | _ => .error (.badFrame c)
    | _ => .error (.notCommandByte c)

/-- Is this byte the command byte of one of the six frames (R102)? No select code is (R119). -/
def isCommandByte (b : Byte) : Bool :=
  b == 0x74 || b == 0x72 || b == 0x54 || b == 0x52 || b == 0x53 || b == 0x4F

/-- The instruction of any bytes: a wire frame by its command byte, a host operation by its select code. -/
def decode (bytes : List Byte) : Except Reject Instr :=
  if isCommandByte (bytes.headD 0) then decodeWire bytes else decodeHost bytes

/-- The bytes of an instruction: a wire frame's from the same tables (R103 to R108), a host operation's select code (R119) in
one byte and its operand in the model's own layout (entry 14). -/
def encode : Instr → List Byte
  | .stdData id len payload cr => 0x74 :: id ++ len :: payload ++ [cr]
  | .stdRemote id len cr => 0x72 :: id ++ [len, cr]
  | .extData id len payload cr => 0x54 :: id ++ len :: payload ++ [cr]
  | .extRemote id len cr => 0x52 :: id ++ [len, cr]
  | .baudFrame x cr => [0x53, x, cr]
  | .openFrame cr => [0x4F, cr]
  | .acqbm => [0x0]
  | .acqtr req => 0x1 :: wordBytes req
  | .setbaud hz => 0x2 :: wordBytes hz
  | .setfilt mode => 0x3 :: mode
  | .regboff cb => 0x4 :: cb
  | .buson => [0x5]
  | .baud => [0x6]
  | .send m => 0x7 :: messageBytes m
  | .rxbuf => [0x8]
  | .rxcur => [0x9]
  | .rdslot i => 0xA :: wordBytes i

/-! ### The opcode table's words -/

/-- The least number of bytes an instruction with this first byte has (R102, R149; entry 14). -/
def leastLength (b : Byte) : Nat :=
  match b.toNat with
  | 0x74 => 6
  | 0x72 => 6
  | 0x54 => 11
  | 0x52 => 11
  | 0x53 => 3
  | 0x4F => 2
  | 0x1 => 5
  | 0x2 => 5
  | 0x7 => 16
  | 0xA => 5
  | _ => 1

/-- The first `n` bytes of the number `w`, bit 0 being the least significant bit of the first byte. -/
def lowBytes : Nat → Nat → List Byte
  | 0, _ => []
  | n + 1, w => BitVec.ofNat 8 w :: lowBytes n (w / 256)

/-- The bytes of an instruction the opcode table gives as the number `w` of `nbits` bits, zero above them, as long as an
instruction with that first byte at least is. -/
def tableBytes (nbits w : Nat) : List Byte := lowBytes (max ((nbits + 7) / 8) (leastLength (BitVec.ofNat 8 w))) w

/-- What the decoder reads from a word of spec/opcode_table.json. -/
def decodeTableWord (nbits w : Nat) : Option Instr := (decode (tableBytes nbits w)).toOption

end Sys2Proof
end

