-- ==== Sys2Proof/Machine/Memory.lean ====
section
/-! DEFINITION. Storage read by index (R60): byte spaces (TRX, ASM) as lists of cells, and the message ring's written
slots, each in one canonical form, so that equal contents are equal data. -/

namespace Sys2Proof.Machine

/-- A byte space: the cells that hold something else than 0x00, indices rising. An unlisted index reads 0x00 (entry 9). -/
abbrev Memory := List Host.Cell

/-- What an index no cell lists reads as (entry 9). -/
def Memory.unlisted : Byte := 0x00

/-- The byte at an index. -/
def Memory.read : Memory → Nat → Byte
  | [], _ => Memory.unlisted
  | (a, b) :: rest, i => if a = i then b else Memory.read rest i

/-- Writes one byte and keeps the canonical form: writing the unlisted byte removes the cell. -/
def Memory.write : Memory → Nat → Byte → Memory
  | [], i, v => if v = Memory.unlisted then [] else [(i, v)]
  | (a, b) :: rest, i, v =>
    if i < a then (if v = Memory.unlisted then (a, b) :: rest else (i, v) :: (a, b) :: rest)
    else if i = a then (if v = Memory.unlisted then rest else (i, v) :: rest)
    else (a, b) :: Memory.write rest i v

/-- The canonical form: indices strictly rising, no cell holding what an unlisted index reads as. -/
abbrev Memory.wf (m : Memory) : Prop :=
  m.Pairwise (fun c d => c.1 < d.1) ∧ ∀ c ∈ m, c.2 ≠ Memory.unlisted

/-- The slots a PUSH has written since ACQTR, by index, indices rising (R24; entry 6). An index not listed is a
never-written slot (R189). -/
abbrev Slots := List (Nat × Message)

/-- The message a PUSH wrote to a slot, if one did. -/
def Slots.read : Slots → Nat → Option Message
  | [], _ => none
  | (a, m) :: rest, i => if a = i then some m else Slots.read rest i

/-- Writes one slot, whole (R64). -/
def Slots.write : Slots → Nat → Message → Slots
  | [], i, v => [(i, v)]
  | (a, m) :: rest, i, v =>
    if i < a then (i, v) :: (a, m) :: rest
    else if i = a then (i, v) :: rest
    else (a, m) :: Slots.write rest i v

/-- The canonical form of the ring: indices strictly rising. -/
abbrev Slots.wf (r : Slots) : Prop := r.Pairwise (fun c d => c.1 < d.1)

end Sys2Proof.Machine
end

