-- ==== Sys2Proof/Machine/State.lean ====
section
/-! DEFINITION. The state of the block (10_state.md R20), the reasons a step can stop, and the state right after reset
(R41). -/

namespace Sys2Proof.Machine

/-- The status every host operation returns (R11, R275). -/
inductive Status where
  | ok
  | busy
  | notSupported
  | notPermitted
  deriving DecidableEq, Repr

/-- The value a host operation returns beside its status, where it returns one (R119). -/
inductive Value where
  /-- BAUD: the rate in hertz (R237) -/
  | rate (hz : Word)
  /-- RXBUF: the extent `N` of the live view (R209) -/
  | extent (n : Nat)
  /-- RXCUR: `widx` after the pass (R210) -/
  | cursor (i : Nat)
  /-- RDSLOT: the message in the slot (R185) -/
  | message (m : Message)
  deriving DecidableEq, Repr

/-- What a host operation returned: `return S` or `return S, v` (R10). -/
structure Reply where
  status : Status
  value : Option Value
  deriving DecidableEq, Repr

/-- The two facets (R281(a)). -/
inductive Facet where
  | busManager
  | transceiver
  deriving DecidableEq, Repr

/-- What the outside does next (R7): one entry of the interleaving of R75. -/
inductive Event where
  /-- the HOST issues the host operation these bytes encode (R119; entry 14) -/
  | op (bytes : List Byte)
  /-- the PRODUCER appends these bytes, one `producerStep` each (R62, R121 `RX "<bytes>"`) -/
  | rx (bytes : List Byte)
  /-- the HOST issues a second operation before the first has returned, which R73 gives no meaning (entry 18) -/
  | overlap (first second : List Byte)
  deriving DecidableEq, Repr

/-- Why the machine would stop with a fault. NOBODY raises one: R270 has no error that stops the block (its errors are
statuses, R271 to R273, and the silent drop of R274), so this type has no constructor. Safe (entry 20). -/
inductive Fault where
  deriving DecidableEq, Repr

/-- Why an operation has no meaning: the complete list of R285, and bytes that are no operation. All safe: a run that
meets one stops, and nothing is proved past it. -/
inductive Refusal where
  /-- an instruction the model gives no meaning to: raised by no arm of `exec` (every row has its meaning). Safe. -/
  | notModelled (mnemonic : String)
  /-- R285(a), R240: an operation of a facet that was not acquired. Raised by the nine facet operations. Safe. -/
  | facetNotHeld (f : Facet)
  /-- R285(b), R145, R238: SEND of a structurally invalid message while the bus is open. Safe. -/
  | invalidMessage
  /-- R285(c), R185: RDSLOT with an index outside 0..N-1. Safe. -/
  | slotOutsideView
  /-- R285(d), R232: ACQTR asking for more than `RING_CAP_MAX` slots while no transceiver is acquired. Safe. -/
  | ringTooLarge
  /-- R285(e), R119: the HOST's select code is one of 0xB..0xF. Raised by the fetch. Safe. -/
  | reservedSelect (code : Nat)
  /-- R285(f), R73: two host operations overlap. Raised by the fetch. Safe. -/
  | overlapping
  /-- the HOST's bytes encode no operation of R119 (entry 15). Raised by the fetch. Safe. -/
  | noSuchOperation (r : Reject)
  deriving DecidableEq, Repr

/-- The state. The first group is R20's, element by element; `cfg` holds R8's parameters, which no step writes (entry 1);
`reply`, `draws` and `inputs` are the model's own (entries 12, 7, 11). -/
structure State where
  /-- the instance's parameters (R8) -/
  cfg : Params
  /-- rate last accepted by SETBAUD, in hertz (R30) -/
  baud : Word
  /-- 0 = `bus_closed`, 1 = `bus_open` (R31) -/
  busOpen : Bool
  /-- `bm_acq`: the bus manager has been acquired (R32) -/
  bmAcq : Bool
  /-- `tr_acq`: the transceiver has been acquired (R32) -/
  trAcq : Bool
  /-- the argument of the most recent REGBOFF (R33) -/
  boff : Option Token
  /-- `N`, the ring's capacity, from ACQTR on (R25) -/
  ringCap : Nat
  /-- `slot[0..N-1]`, from ACQTR on (R24): the written ones (entry 6) -/
  slots : Slots
  /-- the ring's write cursor, from ACQTR on (R26) -/
  widx : Nat
  /-- `asm[0..A-1]`, the assembly buffer, from ACQTR on (R27) -/
  asm : Memory
  /-- how many bytes of `asm` are meaningful (R28) -/
  fill : Nat
  /-- `last_cur`, the index of the first byte of `trx` not yet consumed (R29) -/
  lastCur : Nat
  /-- the transport's receive ring (R35) -/
  trx : Memory
  /-- `trx_cur`, where the PRODUCER writes its next byte (R35) -/
  trxCur : Nat
  /-- every byte handed to the transport's `write`, in order (R36) -/
  txlog : List Byte
  /-- the model's own: what the last host operation returned (entry 12) -/
  reply : Option Reply
  /-- the model's own: how many times don't-care bytes have been drawn (entry 7) -/
  draws : Nat
  /-- the model's own: what HOST and PRODUCER do next, oldest first (entry 11) -/
  inputs : List Event
  deriving DecidableEq, Repr

/-- The machine right after reset (R41, R300 to R303): closed, nothing acquired, 125 kHz assumed, no handler, nothing
emitted. The ring and the parser do not exist yet (R25): their fields hold entry 8's values until ACQTR. -/
def State.reset : State where
  cfg := Config.params
  baud := Config.baudReset
  busOpen := false
  bmAcq := false
  trAcq := false
  boff := none
  ringCap := 0
  slots := []
  widx := 0
  asm := []
  fill := 0
  lastCur := 0
  trx := []
  trxCur := 0
  txlog := []
  reply := none
  draws := 0
  inputs := []

end Sys2Proof.Machine
end

