-- ==== Sys2Proof/Machine/Free.lean ====
section
/-! DEFINITION. The free value of a don't-care payload byte (R23, R153). It stands after the state because it may depend on
all of it; the other free values are in Config.lean. -/

namespace Sys2Proof

/-- FREE VALUE: don't-care byte `k` of a message that `DEC` makes in the state `s`, under `RX_PAD` = `any` (R23, R153;
entry 7). No rule gives it, so it has no body; it takes the whole state so that the bytes two different runs draw, or two
draws of one run, cannot be proved equal. Nothing of the state is read by it: it has no value anything could depend on. -/
opaque Config.freeByte (s : Machine.State) (k : Nat) : Byte

end Sys2Proof
end

