-- ==== Sys2Proof/Machine/Ops.lean ====
section
/-! DEFINITION. The named operations over the state: returning a status, the transmit stream, the transport's receive
ring, the assembly buffer and the message ring (R10, R60 to R65). -/

namespace Sys2Proof.Machine

/-! ### Returning from a host operation (R10, R270 to R278) -/

/-- `return OK` / `return OK, v` (R10). -/
def State.finish (s : State) (v : Option Value) : State := { s with reply := some ⟨.ok, v⟩ }

/-- Taking an error, the one exception this block has (R270, R277): the operation returns the status, no element of R20
changes, nothing is emitted, no cause is recorded and control goes nowhere. There is no return from it (R278): the next
host operation proceeds from the same state. -/
def State.raise (s : State) (e : Status) : State := { s with reply := some ⟨e, none⟩ }

/-- The code of a status (R275, decision D3). -/
def Status.code : Status → Nat
  | .ok => 0
  | .busy => 1
  | .notSupported => 2
  | .notPermitted => 3

/-! ### The transmit stream (R36, R65) -/

/-- `Tx(s)`: the bytes go to the transport's `write`, in one piece and always accepted (R65, R239; entry 17). -/
def State.tx (s : State) (bytes : List Byte) : State := { s with txlog := s.txlog ++ bytes }

/-! ### The transport's receive ring (R35, R61, R62) -/

/-- `producerStep(b)` (R62): the byte is in place no later than the cursor moves. -/
def State.produce (s : State) (b : Byte) : State :=
  { s with trx := s.trx.write s.trxCur b, trxCur := (s.trxCur + 1) % s.cfg.trxCap }

/-- `RX "<bytes>"` (R121): one `producerStep` each, in order. -/
def State.receive (s : State) (bytes : List Byte) : State := bytes.foldl State.produce s

/-- `TrxRead(i)` (R10). -/
def State.trxRead (s : State) (i : Nat) : Byte := s.trx.read i

/-! ### The assembly buffer (R27, R28, R63) -/

/-- Stores one byte at `fill` (R63, R204 step a). -/
def State.append (s : State) (b : Byte) : State := { s with asm := s.asm.write s.fill b, fill := s.fill + 1 }

/-- `asm[0..fill)`, what `DEC` is given (R63). -/
def State.segment (s : State) : List Byte := (List.range s.fill).map s.asm.read

/-- `fill <- 0`: the bytes stay, and are stale (R27, R206). -/
def State.emptyAsm (s : State) : State := { s with fill := 0 }

/-- The don't-care byte `k` of the message received next (R23, R153): free under `RX_PAD` = `any`, else zero. -/
def State.pad (s : State) (k : Nat) : Byte :=
  match s.cfg.rxPad with
  | .any => Config.freeByte s k
  | .zero => 0x00

/-- Counts one draw of don't-care bytes (the model's own; entry 7). -/
def State.drawn (s : State) : State := { s with draws := s.draws + 1 }

/-- `last_cur <- cur` (R207). -/
def State.commitCursor (s : State) (cur : Nat) : State := { s with lastCur := cur }

/-! ### The message ring (R24, R26, R182) -/

/-- `PUSH(m)` (R182): writes the whole slot at `widx`, advances `widx` modulo `N`. -/
def State.push (s : State) (m : Message) : State :=
  { s with slots := s.slots.write s.widx m, widx := (s.widx + 1) % s.ringCap }

/-- An unspecified message (R189), the same at every read of the same slot (R78). -/
def freeMessage (i : Nat) : Message where
  id := Config.freeId i
  extended := Config.freeExtended i
  remoteRequest := Config.freeRemote i
  length := (Config.freeLength i).val
  payload := payloadOf (Config.freePayload i)

/-- The never-written slot under `RING_INIT` = `zero` (R189). -/
def zeroMessage : Message where
  id := 0
  extended := false
  remoteRequest := false
  length := 0
  payload := payloadOf (fun _ => 0x00)

/-- What a never-written slot holds (R189, `RING_INIT`). -/
def unwrittenSlot (c : Params) (i : Nat) : Message :=
  match c.ringInit with
  | .any => freeMessage i
  | .zero => zeroMessage

/-- `slot[i]` (R10, R185): a written slot, or what a never-written one holds. -/
def State.slotRead (s : State) (i : Nat) : Message := (s.slots.read i).getD (unwrittenSlot s.cfg i)

/-! ### Control state (R30 to R33) -/

/-- `baud <- hz` (R233). -/
def State.setBaud (s : State) (hz : Word) : State := { s with baud := hz }

/-- `boff <- cb` (R235). -/
def State.setBoff (s : State) (cb : Token) : State := { s with boff := some cb }

end Sys2Proof.Machine
end

