-- ==== Sys2Proof/Machine/Flags.lean ====
section
/-! DEFINITION. The block's one-bit state (R38): the two acquisition flags, the bus state, and the precondition they put
on an operation (R240, R281). No other flag exists: a message's two flags are written by `DEC` (Decode.lean). -/

namespace Sys2Proof.Machine

/-- Is the facet held (R281(a))? -/
def State.holds (s : State) : Facet → Bool
  | .busManager => s.bmAcq
  | .transceiver => s.trAcq

/-- The facet precondition (R240): an operation issued without its facet has no meaning. -/
def withFacet (f : Facet) (s : State) (run : Host.Outcome State Fault Refusal) : Host.Outcome State Fault Refusal :=
  if s.holds f then run else .refused (.facetNotHeld f)

/-- `bm_acq <- 1` (R231). -/
def State.takeBusManager (s : State) : State := { s with bmAcq := true }

/-- `bus_open <- 1` (R236): the only transition of R230. -/
def State.openBus (s : State) : State := { s with busOpen := true }

/-- Where the parser starts reading (R232, `RX_CURSOR_INIT`). -/
def State.initialCursor (s : State) : Nat :=
  match s.cfg.rxCursorInit with
  | .zero => 0
  | .snapshot => s.trxCur

/-- What a successful ACQTR creates (R232, R302): the flag, a ring of `n` never-written slots, an empty parser. -/
def State.createTransceiver (s : State) (n : Nat) : State :=
  { s with trAcq := true, ringCap := n, widx := 0, slots := [], fill := 0, lastCur := s.initialCursor }

end Sys2Proof.Machine
end

