-- ==== Sys2Proof/Machine/Operands.lean ====
section
/-! DEFINITION. The operands of the host operations (R120): when a message is structurally valid (R22), the capacity a
request gives (R181), and the indices of the view (R185). -/

namespace Sys2Proof.Machine

/-- The largest id of each space (R21, R22): 11 bits standard, 29 bits extended. -/
def maxId (extended : Bool) : Nat := if extended then 0x1FFFFFFF else 0x7FF

/-- A structurally valid message (R22). -/
def validMessage (m : Message) : Bool := m.length ≤ 8 && m.id.toNat ≤ maxId m.extended

/-- `N = max(1, req)` (R181, R25). -/
def ringCapacity (req : Word) : Nat := max 1 req.toNat

/-- `req > RING_CAP_MAX` (R232). -/
def State.tooLarge (s : State) (req : Word) : Bool := s.cfg.ringCapMax < req.toNat

/-- `0 <= i < N` (R185). -/
def State.inView (s : State) (i : Word) : Bool := i.toNat < s.ringCap

end Sys2Proof.Machine
end

