-- ==== Sys2Proof/Machine/Control.lean ====
section
/-! DEFINITION. The adapter control unit (43_control.md): the host operations that do not run the parser. -/

namespace Sys2Proof.Machine

/-- ACQBM (R231): once, then BUSY for ever. -/
def execAcqbm (s : State) : Host.Outcome State Fault Refusal :=
  if s.bmAcq then .next (s.raise .busy) else .next (s.takeBusManager.finish none)

/-- ACQTR (R232): once, then BUSY and the request ignored; a ring above `RING_CAP_MAX` has no meaning. -/
def execAcqtr (req : Word) (s : State) : Host.Outcome State Fault Refusal :=
  if s.trAcq then .next (s.raise .busy)
  else if s.tooLarge req then .refused .ringTooLarge
  else .next ((s.createTransceiver (ringCapacity req)).finish none)

/-- SETBAUD (R233): the bus state is checked before the rate (R276); on success the `S` frame goes out, whatever `baud`
holds. -/
def execSetbaud (hz : Word) (s : State) : Host.Outcome State Fault Refusal :=
  withFacet .busManager s
    (if s.busOpen then .next (s.raise .notPermitted)
     else
       match baudCh hz with
       | none => .next (s.raise .notSupported)
       | some x => .next (((s.tx (encode (.baudFrame x crByte))).setBaud hz).finish none))

/-- SETFILT (R234): accepted in any state, nothing stored, nothing emitted, the mode not examined. -/
def execSetfilt (_mode : Token) (s : State) : Host.Outcome State Fault Refusal :=
  withFacet .busManager s (.next (s.finish none))

/-- REGBOFF (R235): stores the token, which nothing ever reads (R280). -/
def execRegboff (cb : Token) (s : State) : Host.Outcome State Fault Refusal :=
  withFacet .busManager s (.next ((s.setBoff cb).finish none))

/-- BUSON (R236): silent if open already, else the `O` frame goes out and the bus is open for good (R230). -/
def execBuson (s : State) : Host.Outcome State Fault Refusal :=
  withFacet .busManager s
    (if s.busOpen then .next (s.finish none) else .next (((s.tx (encode (.openFrame crByte))).openBus).finish none))

/-- BAUD (R237): a plain read, no pass. -/
def execBaud (s : State) : Host.Outcome State Fault Refusal :=
  withFacet .transceiver s (.next (s.finish (some (.rate s.baud))))

/-- SEND (R238): the bus state first, then the message's validity (R276); the frame goes out, ring and parser untouched. -/
def execSend (m : Message) (s : State) : Host.Outcome State Fault Refusal :=
  withFacet .transceiver s
    (if s.busOpen then (if validMessage m then .next ((s.tx (enc m)).finish none) else .refused .invalidMessage)
     else .next (s.raise .notSupported))

end Sys2Proof.Machine
end

