-- ==== Sys2Proof/Machine/Parser.lean ====
section
/-! DEFINITION. The incremental parser (42_parser.md): `PBYTE`, `PASS`, and the two host operations that run it, RXBUF and
RXCUR. -/

namespace Sys2Proof.Machine

/-- `PBYTE` step a (R204, R205): the byte is stored while `fill < A - 1`, else dropped. -/
def State.store (s : State) (b : Byte) : State := if s.fill < s.cfg.asmCap - 1 then s.append b else s

/-- `PBYTE` step b on a CR (R206): one `DEC` of the segment, a `PUSH` on success, a silent drop on failure (R274), and the
buffer is empty in every case. -/
def State.endSegment (s : State) : State :=
  match dec s.pad s.segment with
  | some m => ((s.push m).drawn).emptyAsm
  | none => s.emptyAsm

/-- `PBYTE(b)` (R204): step a before step b; the test is on the incoming byte, stored or not (R206). -/
def State.pbyte (s : State) (b : Byte) : State := if b = crByte then (s.store b).endSegment else s.store b

/-- `nb` (R203): the new bytes between `last_cur` and the cursor, modulo `M`. -/
def newByteCount (cur last cap : Nat) : Nat := (cur + cap - last) % cap

/-- The new bytes, in transport order (R202 step 3, R61). `PBYTE` writes neither `trx` nor `last_cur`, so reading them all
first reads what the loop of R202 reads. -/
def State.newBytes (s : State) : List Byte :=
  (List.range (newByteCount s.trxCur s.lastCur s.cfg.trxCap)).map (fun i => s.trxRead ((s.lastCur + i) % s.cfg.trxCap))

/-- `PASS` (R202): no progress changes nothing (R211); else one `PBYTE` per new byte, and the sampled cursor is committed
once, at the end (R207). -/
def State.pass (s : State) : State :=
  if newByteCount s.trxCur s.lastCur s.cfg.trxCap = 0 then s
  else (s.newBytes.foldl State.pbyte s).commitCursor s.trxCur

/-- RXBUF (R209): a pass, then the extent of the view, which is always `N` (R183). -/
def execRxbuf (s : State) : Host.Outcome State Fault Refusal :=
  withFacet .transceiver s (.next (s.pass.finish (some (.extent s.pass.ringCap))))

/-- RXCUR (R210): a pass, then `widx` after it. -/
def execRxcur (s : State) : Host.Outcome State Fault Refusal :=
  withFacet .transceiver s (.next (s.pass.finish (some (.cursor s.pass.widx))))

/-- The states of the parser as a machine (R208). -/
inductive ParserMode where
  /-- `fill` = 0 -/
  | idle
  /-- 1 <= `fill` <= A - 2 -/
  | accum
  /-- `fill` = A - 1 -/
  | full
  deriving DecidableEq, Repr

/-- The control state of the parser (R208), told by `fill`. -/
def State.parserMode (s : State) : ParserMode :=
  if s.fill = 0 then .idle else if s.fill < s.cfg.asmCap - 1 then .accum else .full

end Sys2Proof.Machine
end

