-- ==== Sys2Proof/Machine/Ring.lean ====
section
/-! DEFINITION. The message ring's host side (41_ring.md): RDSLOT, and the consumer arithmetic of R186 and R187, which is
the host's own software over the ring's interface. `PUSH` is in Ops.lean. -/

namespace Sys2Proof.Machine

/-- RDSLOT (R185): a plain read of the live view, no pass, no state change but the reply; outside the view, no meaning. -/
def execRdslot (i : Word) (s : State) : Host.Outcome State Fault Refusal :=
  withFacet .transceiver s
    (if s.inView i then .next (s.finish (some (.message (s.slotRead i.toNat)))) else .refused .slotOutsideView)

/-- `delta` (R186): how many new messages a host sees that last saw the cursor at `seen`. -/
def consumerDelta (w seen n : Nat) : Nat := (w + n - seen) % n

/-- The slots a host consumes for that delta, oldest first (R186). -/
def consumedSlots (w seen n : Nat) : List Nat := (List.range (consumerDelta w seen n)).map (fun j => (seen + j) % n)

/-- Where the `k`-th most recent message is (R187). -/
def recentSlot (w k n : Nat) : Nat := (w + n - k) % n

end Sys2Proof.Machine
end

