-- ==== Sys2Proof/Machine/Wire.lean ====
section
/-! DEFINITION. The six wire frames as instructions (R102 to R108). A frame comes to the block as bytes the PRODUCER
appends (R62); the block acts on it in the next pass, which alone decodes (R201, R78): `Sys2Proof.Machine.State.pass`. What
the block sends is in Control.lean (entry 13). -/

namespace Sys2Proof.Machine

/-- A frame arrives: its bytes enter the transport's receive ring (R61, R62), wherever it falls (R68). -/
def frameArrives (i : Instr) (s : State) : Host.Outcome State Fault Refusal := .next (s.receive (encode i))

/-- `t` (R103): the next pass that takes its CR pushes a standard data message (R147, R204). -/
def execStdData (id : List Byte) (len : Byte) (payload : List Byte) (cr : Byte) (s : State) :
    Host.Outcome State Fault Refusal := frameArrives (.stdData id len payload cr) s

/-- `r` (R104): the next pass that takes its CR pushes a standard remote message (R147, R151). -/
def execStdRemote (id : List Byte) (len : Byte) (cr : Byte) (s : State) : Host.Outcome State Fault Refusal :=
  frameArrives (.stdRemote id len cr) s

/-- `T` (R105): the next pass that takes its CR pushes an extended data message (R147, R204). -/
def execExtData (id : List Byte) (len : Byte) (payload : List Byte) (cr : Byte) (s : State) :
    Host.Outcome State Fault Refusal := frameArrives (.extData id len payload cr) s

/-- `R` (R106): the next pass that takes its CR pushes an extended remote message (R147, R151). -/
def execExtRemote (id : List Byte) (len : Byte) (cr : Byte) (s : State) : Host.Outcome State Fault Refusal :=
  frameArrives (.extRemote id len cr) s

/-- `S` (R107): transmit only; a received one is malformed, and the next pass that takes its CR drops it (R116). -/
def execBaudFrame (x cr : Byte) (s : State) : Host.Outcome State Fault Refusal := frameArrives (.baudFrame x cr) s

/-- `O` (R108): transmit only; a received one is malformed, and the next pass that takes its CR drops it (R116). -/
def execOpenFrame (cr : Byte) (s : State) : Host.Outcome State Fault Refusal := frameArrives (.openFrame cr) s

end Sys2Proof.Machine
end

