-- ==== Sys2Proof/Machine/Dispatch.lean ====
section
/-! DEFINITION. What each instruction does: one arm per constructor of Instr, each one call of its meaning. -/

namespace Sys2Proof.Machine

def exec (i : Instr) (s : State) : Host.Outcome State Fault Refusal :=
  match i with
  -- wire frames (R102)
  | .stdData id len payload cr => Sys2Proof.Machine.execStdData id len payload cr s
  | .stdRemote id len cr => Sys2Proof.Machine.execStdRemote id len cr s
  | .extData id len payload cr => Sys2Proof.Machine.execExtData id len payload cr s
  | .extRemote id len cr => Sys2Proof.Machine.execExtRemote id len cr s
  | .baudFrame x cr => Sys2Proof.Machine.execBaudFrame x cr s
  | .openFrame cr => Sys2Proof.Machine.execOpenFrame cr s
  -- host operations (R119)
  | .acqbm => Sys2Proof.Machine.execAcqbm s
  | .acqtr req => Sys2Proof.Machine.execAcqtr req s
  | .setbaud hz => Sys2Proof.Machine.execSetbaud hz s
  | .setfilt mode => Sys2Proof.Machine.execSetfilt mode s
  | .regboff cb => Sys2Proof.Machine.execRegboff cb s
  | .buson => Sys2Proof.Machine.execBuson s
  | .baud => Sys2Proof.Machine.execBaud s
  | .send m => Sys2Proof.Machine.execSend m s
  | .rxbuf => Sys2Proof.Machine.execRxbuf s
  | .rxcur => Sys2Proof.Machine.execRxcur s
  | .rdslot idx => Sys2Proof.Machine.execRdslot idx s

end Sys2Proof.Machine
end

