-- ==== Sys2Proof/Machine/Fetch.lean ====
section
/-! DEFINITION. What the next step runs: the head of `inputs` (R7, R75; entry 11). -/

namespace Sys2Proof.Machine

/-- What the machine finds to do next. -/
inductive Fetched where
  /-- the outside does nothing: the block has no step of its own (R7(b), R301) -/
  | idle
  /-- an instruction, and the state without its entry -/
  | instr (i : Instr) (s : State)
  /-- received bytes that form no wire frame (a part of one, several, noise), and the state without their entry -/
  | noise (bytes : List Byte) (s : State)
  /-- the HOST asks for something that has no meaning (R285) -/
  | stop (r : Refusal)
  deriving Repr

/-- How a rejected host operation is refused (R285(e); entry 15). -/
def refusalOf : Reject → Refusal
  | .reservedSelect n => .reservedSelect n
  | r => .noSuchOperation r

/-- Takes one entry of `inputs`. -/
def fetchEvent (e : Event) (s : State) : Fetched :=
  match e with
  | .op bytes =>
    match decodeHost bytes with
    | .ok i => .instr i s
    | .error r => .stop (refusalOf r)
  | .rx bytes =>
    match decodeWire bytes with
    | .ok i => .instr i s
    | .error _ => .noise bytes s
  | .overlap _ _ => .stop .overlapping

/-- Takes the oldest entry of `inputs`. -/
def fetch (s : State) : Fetched :=
  match s.inputs with
  | [] => .idle
  | e :: rest => fetchEvent e { s with inputs := rest }

/-- The entry by which the bytes of an instruction reach the machine: a wire frame from the PRODUCER, a host operation
from the HOST. -/
def eventOf (bytes : List Byte) : Event := if isCommandByte (bytes.headD 0) then .rx bytes else .op bytes

end Sys2Proof.Machine
end

