-- ==== Sys2Proof/Machine/Step.lean ====
section
/-! DEFINITION. One step of the machine: one action of the HOST, with the BLOCK's whole work for it, or of the PRODUCER
(R7, R73, R75). -/

namespace Sys2Proof.Machine

/-- One step: the next input is an instruction, and runs; or bytes that form no frame, and arrive all the same (R62); or
there is none, and nothing happens (R301); or it has no meaning (R285). -/
def step (s : State) : Host.Outcome State Fault Refusal :=
  match fetch s with
  | .idle => .next s
  | .instr i s' => exec i s'
  | .noise bytes s' => .next (s'.receive bytes)
  | .stop r => .refused r

/-- `s` with the instruction the opcode table numbers `w` (of `nbits` bits) as the next input (entry 11). -/
def State.withFetchWord (s : State) (nbits w : Nat) : State :=
  { s with inputs := eventOf (tableBytes nbits w) :: s.inputs }

end Sys2Proof.Machine
end

