-- ==== Sys2Proof/Safety.lean ====
section
/-! DEFINITION. What claims speak of: the equivalence of messages (R12), the well-formedness of the state (R43), a parser
that has caught up with the transport, and what an arriving frame does. -/

namespace Sys2Proof.Machine

/-- `m ~ m'` (R12): the fields agree, and, in a data message, the payload below `length`; bytes beyond it carry no meaning
(R23). -/
def Message.Equiv (m m' : Message) : Prop :=
  m.id = m'.id ∧ m.extended = m'.extended ∧ m.remoteRequest = m'.remoteRequest ∧ m.length = m'.length ∧
    (m.remoteRequest = false → m.payload.toList.take m.length = m'.payload.toList.take m.length)

/-- `~` on two rings: the same slots are written, with messages that are `~`. Claims about two runs compare rings so, never
record by record (R23). -/
def Slots.Equiv (r r' : Slots) : Prop := List.Forall₂ (fun c d => c.1 = d.1 ∧ Message.Equiv c.2 d.2) r r'

/-- `~` on two states: their rings are `~`, and everything else is the same. -/
def State.Equiv (s t : State) : Prop := Slots.Equiv s.slots t.slots ∧ t = { s with slots := t.slots }

/-- `~` on two outcomes: next states that are `~`, or the same stop. -/
def OutcomeEquiv : Host.Outcome State Fault Refusal → Host.Outcome State Fault Refusal → Prop
  | .next s, .next t => State.Equiv s t
  | .fault a, .fault b => a = b
  | .refused a, .refused b => a = b
  | _, _ => False

/-- The constraints R8 puts on the parameters. -/
structure ParamsOk (c : Params) : Prop where
  trxCap : 2 ≤ c.trxCap
  asmCap : 29 ≤ c.asmCap
  ringCapMax : 1 ≤ c.ringCapMax

/-- The well-formedness of the state (R43, I1 to I4 and I6 to I8), with the canonical forms of the storage spaces and the
index ranges of R60. I5 speaks of two states: the flags never fall. -/
structure State.Inv (s : State) : Prop where
  cfg : ParamsOk s.cfg
  /-- I1 -/
  ring : s.trAcq = true → 1 ≤ s.ringCap ∧ s.widx < s.ringCap
  /-- I2 -/
  fill : s.fill ≤ s.cfg.asmCap - 1
  /-- I3 -/
  lastCur : s.lastCur < s.cfg.trxCap
  /-- I3 -/
  trxCur : s.trxCur < s.cfg.trxCap
  /-- I4 -/
  rate : s.baud ∈ baudTable.map Prod.fst
  /-- I6 -/
  opened : s.busOpen = true → s.bmAcq = true
  /-- I7 -/
  pushed : ∀ c ∈ s.slots, c.2.length ≤ 8
  /-- I8 -/
  noCr : crByte ∉ s.segment
  trxForm : s.trx.wf
  trxRange : ∀ c ∈ s.trx, c.1 < s.cfg.trxCap
  asmForm : s.asm.wf
  asmRange : ∀ c ∈ s.asm, c.1 < s.cfg.asmCap - 1
  slotForm : s.slots.wf
  slotRange : ∀ c ∈ s.slots, c.1 < s.ringCap

/-- The transceiver is acquired and its parser has consumed every byte and waits for a new segment: the situation of R202's
example. -/
structure State.CaughtUp (s : State) : Prop where
  held : s.trAcq = true
  consumed : s.lastCur = s.trxCur
  empty : s.fill = 0

/-- What the PRODUCER's appending `bytes` does to the state (R62, R35), byte by byte: `t` differs from `s` in `trx` and
`trx_cur` only; the index of each byte is `trx_cur` plus its place, modulo `M`; where more than `M` bytes land, the later
ones stay (R79); every other index reads as before. -/
def Arrived (s : State) (bytes : List Byte) (t : State) : Prop :=
  t = { s with trx := t.trx, trxCur := t.trxCur } ∧
  t.trxCur = (s.trxCur + bytes.length) % s.cfg.trxCap ∧
  (∀ k (h : k < bytes.length), bytes.length ≤ k + s.cfg.trxCap →
    t.trx.read ((s.trxCur + k) % s.cfg.trxCap) = bytes[k]) ∧
  (∀ a, (∀ k, k < bytes.length → a ≠ (s.trxCur + k) % s.cfg.trxCap) → t.trx.read a = s.trx.read a)

/-- A wire frame (R102), as against a host operation (R119). -/
def isWireFrame : Instr → Bool
  | .stdData _ _ _ _ => true
  | .stdRemote _ _ _ => true
  | .extData _ _ _ _ => true
  | .extRemote _ _ _ => true
  | .baudFrame _ _ => true
  | .openFrame _ => true
  | .acqbm => false
  | .acqtr _ => false
  | .setbaud _ => false
  | .setfilt _ => false
  | .regboff _ => false
  | .buson => false
  | .baud => false
  | .send _ => false
  | .rxbuf => false
  | .rxcur => false
  | .rdslot _ => false

/-- Does the instruction run a parser pass (R201)? RXBUF and RXCUR, and nothing else. -/
def runsPass (i : Instr) : Bool := i = .rxbuf || i = .rxcur

/-- The wire frame of a message (R103 to R106): the instruction whose bytes are `ENC(m)`. -/
def frameOf (m : Message) : Instr :=
  match m.extended, m.remoteRequest with
  | false, false =>
    .stdData (hexDigits 3 m.id.toNat) (lengthDigit m.length) (payloadDigits (m.payload.toList.take m.length)) crByte
  | false, true => .stdRemote (hexDigits 3 m.id.toNat) (lengthDigit m.length) crByte
  | true, false =>
    .extData (hexDigits 8 m.id.toNat) (lengthDigit m.length) (payloadDigits (m.payload.toList.take m.length)) crByte
  | true, true => .extRemote (hexDigits 8 m.id.toNat) (lengthDigit m.length) crByte

/-- The bytes `s` form a message frame that carries the message `m` (R103 to R106, R147), said without the decoder: the
command byte of `m`'s kind, its ID digits, its length digit, in a data frame a pair of digits per payload byte, and one last
byte, which nothing inspects (R117). -/
def Carries (s : List Byte) (m : Message) : Prop :=
  ∃ (idField payload : List Byte) (ld last : Byte) (ids : List Nat),
    s = [commandByte m.extended m.remoteRequest] ++ idField ++ [ld] ++ payload ++ [last] ∧
    idField.length = idDigits m.extended ∧
    idField.map hexVal = ids.map some ∧
    m.id.toNat = ids.foldl (fun v d => 16 * v + d) 0 ∧
    m.length = (ld - 0x30).toNat ∧ m.length ≤ 8 ∧
    (m.remoteRequest = true → payload = []) ∧
    (m.remoteRequest = false → payload.length = 2 * m.length ∧
      ∀ k (h : k < 8), k < m.length → ∃ hi lo, (payload[2 * k]?).bind hexVal = some hi ∧
        (payload[2 * k + 1]?).bind hexVal = some lo ∧ m.payload[k].toNat = 16 * hi + lo)

/-- SEND of each message in turn (R238), stopping where one does not complete. -/
def sendAll : List Message → State → Host.Outcome State Fault Refusal
  | [], s => .next s
  | m :: rest, s =>
    match exec (.send m) s with
    | .next t => sendAll rest t
    | .fault r => .fault r
    | .refused r => .refused r

/-- What a change of state outside an operation's interest does to its outcome. -/
def mapNext (f : State → State) : Host.Outcome State Fault Refusal → Host.Outcome State Fault Refusal
  | .next s => .next (f s)
  | .fault r => .fault r
  | .refused r => .refused r

end Sys2Proof.Machine
end

