-- ==== Sys2Proof/Certificates/Slice0/Obligations.lean ====
section
/-! DEFINITION. The statements for the provers: what each operation does, the codec's laws, the ring's and the parser's
laws, and what every step keeps. A statement that rests on a choice of the model, or on a decision of the spec, names it. -/

open Sys2Proof Sys2Proof.Machine

/-! ### The control unit -/

/-- R231: the first ACQBM sets `bm_acq` and returns OK; every later one returns BUSY and changes nothing, for ever. -/
def Obligations.BusManagerAcquiredOnce : Prop :=
  ∀ s : State,
    (s.bmAcq = false → exec .acqbm s = .next { s with bmAcq := true, reply := some ⟨.ok, none⟩ }) ∧
    (s.bmAcq = true → exec .acqbm s = .next { s with reply := some ⟨.busy, none⟩ }) ∧
    (∀ i t, s.bmAcq = true → exec i s = .next t → exec .acqbm t = .next { t with reply := some ⟨.busy, none⟩ })

/-- ACQTR (43_control.md section 2; the initial values are decisions D5 to D7, the maximum is decision D22; never-written
slots are entry 6). -/
def Obligations.TransceiverAcquiredOnce : Prop :=
  ∀ (s : State) (req : Word),
    (s.trAcq = true → exec (.acqtr req) s = .next { s with reply := some ⟨.busy, none⟩ }) ∧
    (s.trAcq = false → req.toNat ≤ s.cfg.ringCapMax →
      exec (.acqtr req) s =
        .next { s with trAcq := true, ringCap := max 1 req.toNat, widx := 0, slots := [], fill := 0,
                       lastCur := (match s.cfg.rxCursorInit with | .zero => 0 | .snapshot => s.trxCur),
                       reply := some ⟨.ok, none⟩ }) ∧
    (s.trAcq = false → s.cfg.ringCapMax < req.toNat → exec (.acqtr req) s = .refused .ringTooLarge)

/-- R181 and R25: `N = max(1, req)`, fixed from the successful ACQTR on; a request above the maximum is refused; and before
ACQTR no admitted operation reads the ring or the parser: their contents `n`, `sl`, `w`, `a`, `f`, `l` make no difference to
any outcome. -/
def Obligations.RingAndParserLiveFromAcquisition : Prop :=
  (∀ (s t : State) (req : Word), s.trAcq = false → exec (.acqtr req) s = .next t → t.ringCap = max 1 req.toNat) ∧
  (∀ (s : State) (req : Word), s.trAcq = false → s.cfg.ringCapMax < req.toNat →
    exec (.acqtr req) s = .refused .ringTooLarge) ∧
  (∀ (i : Instr) (s t : State), s.trAcq = true → exec i s = .next t → t.trAcq = true ∧ t.ringCap = s.ringCap) ∧
  (∀ (i : Instr) (s : State) (n w f l : Nat) (sl : Slots) (a : Memory), s.trAcq = false → (∀ req, i ≠ .acqtr req) →
    exec i { s with ringCap := n, slots := sl, widx := w, asm := a, fill := f, lastCur := l } =
      mapNext (fun t => { t with ringCap := n, slots := sl, widx := w, asm := a, fill := f, lastCur := l }) (exec i s)) ∧
  (∀ (req : Word) (s : State) (n w f l : Nat) (sl : Slots) (a : Memory), s.trAcq = false →
    exec (.acqtr req) { s with ringCap := n, slots := sl, widx := w, asm := a, fill := f, lastCur := l } =
      mapNext (fun t => { t with asm := a }) (exec (.acqtr req) s))

/-- SETBAUD (43_control.md section 3; the bus state is checked first by decision D15, the frame is emitted again for a rate
already held by decision D28). -/
def Obligations.SetBaudEmitsAndRecordsRate : Prop :=
  ∀ (s : State) (hz : Word), s.bmAcq = true →
    (s.busOpen = true → exec (.setbaud hz) s = .next { s with reply := some ⟨.notPermitted, none⟩ }) ∧
    (s.busOpen = false → ∀ x, (hz, x) ∈ baudTable →
      exec (.setbaud hz) s =
        .next { s with txlog := s.txlog ++ [0x53, x, 0x0D], baud := hz, reply := some ⟨.ok, none⟩ }) ∧
    (s.busOpen = false → (∀ x, (hz, x) ∉ baudTable) →
      exec (.setbaud hz) s = .next { s with reply := some ⟨.notSupported, none⟩ })

/-- R234 and R34: SETFILT is accepted in either bus state, for any mode, stores nothing and emits nothing. -/
def Obligations.SetFilterIsNoOp : Prop :=
  ∀ (s : State) (mode : Token), s.bmAcq = true →
    exec (.setfilt mode) s = .next { s with reply := some ⟨.ok, none⟩ }

/-- R235 and R280: REGBOFF stores the token, a second one replaces it, and nothing ever reads it: whatever token `b` is
stored, every other instruction has the same outcome (messages compared through `~`). -/
def Obligations.BusOffHandlerStoredNeverRead : Prop :=
  (∀ (s : State) (cb : Token), s.bmAcq = true →
    exec (.regboff cb) s = .next { s with boff := some cb, reply := some ⟨.ok, none⟩ }) ∧
  (∀ (s t : State) (h1 h2 : Token), exec (.regboff h1) s = .next t →
    exec (.regboff h2) t = .next { s with boff := some h2, reply := some ⟨.ok, none⟩ }) ∧
  (∀ (i : Instr) (s : State) (b : Option Token), (∀ cb, i ≠ .regboff cb) →
    OutcomeEquiv (exec i { s with boff := b }) (mapNext (fun t => { t with boff := b }) (exec i s))) ∧
  (∀ (cb : Token) (s : State) (b : Option Token), exec (.regboff cb) { s with boff := b } = exec (.regboff cb) s)

/-- R236: BUSON emits `O CR` once and opens the bus, and is silent ever after. -/
def Obligations.BusOnOpensOnce : Prop :=
  ∀ s : State, s.bmAcq = true →
    (s.busOpen = true → exec .buson s = .next { s with reply := some ⟨.ok, none⟩ }) ∧
    (s.busOpen = false →
      exec .buson s =
        .next { s with txlog := s.txlog ++ [0x4F, 0x0D], busOpen := true, reply := some ⟨.ok, none⟩ })

/-- R237: BAUD reads the rate, in either bus state, with no pass and no other effect; it sees the rate the other facet set
last. -/
def Obligations.BaudReadsSharedRate : Prop :=
  (∀ s : State, s.trAcq = true → exec .baud s = .next { s with reply := some ⟨.ok, some (.rate s.baud)⟩ }) ∧
  (∀ (s t : State) (hz : Word), s.trAcq = true → exec (.setbaud hz) s = .next t → t.reply = some ⟨.ok, none⟩ →
    exec .baud t = .next { t with reply := some ⟨.ok, some (.rate hz)⟩ })

/-- SEND (43_control.md section 4): closed, NOT_SUPPORTED for any message; open, the frame of a structurally valid message
goes out and nothing else changes; an invalid one is refused (decision D9). -/
def Obligations.SendEmitsFrameWhenOpen : Prop :=
  ∀ (s : State) (m : Message), s.trAcq = true →
    (s.busOpen = false → exec (.send m) s = .next { s with reply := some ⟨.notSupported, none⟩ }) ∧
    (s.busOpen = true → m.length ≤ 8 → m.id.toNat ≤ (if m.extended then 0x1FFFFFFF else 0x7FF) →
      exec (.send m) s = .next { s with txlog := s.txlog ++ enc m, reply := some ⟨.ok, none⟩ }) ∧
    (s.busOpen = true → 8 < m.length ∨ (if m.extended then 0x1FFFFFFF else 0x7FF) < m.id.toNat →
      exec (.send m) s = .refused .invalidMessage)

/-- RDSLOT (41_ring.md section 2): every index of the view is readable, written or not, with no effect but the reply; an
index outside it is refused (decision D17). -/
def Obligations.ReadSlotReadsTheView : Prop :=
  ∀ (s : State) (i : Word), s.trAcq = true →
    (i.toNat < s.ringCap →
      exec (.rdslot i) s = .next { s with reply := some ⟨.ok, some (.message (s.slotRead i.toNat))⟩ }) ∧
    (∀ m, i.toNat < s.ringCap → s.slots.read i.toNat = some m →
      exec (.rdslot i) s = .next { s with reply := some ⟨.ok, some (.message m)⟩ }) ∧
    (s.ringCap ≤ i.toNat → exec (.rdslot i) s = .refused .slotOutsideView)

/-- R209: RXBUF runs a pass and returns the extent `N`, whatever has arrived, in either bus state. -/
def Obligations.RxbufReturnsExtent : Prop :=
  ∀ s : State, s.trAcq = true →
    exec .rxbuf s = .next { s.pass with reply := some ⟨.ok, some (.extent s.ringCap)⟩ }

/-- R210: RXCUR runs a pass and returns `widx` after it, in either bus state. -/
def Obligations.RxcurReturnsCursorAfterPass : Prop :=
  ∀ s : State, s.trAcq = true →
    exec .rxcur s = .next { s.pass with reply := some ⟨.ok, some (.cursor s.pass.widx)⟩ }

/-- An operation of a facet that was never acquired has no meaning (43_control.md section 5, decision D16). -/
def Obligations.FacetOperationsNeedTheirFacet : Prop :=
  ∀ s : State,
    (s.bmAcq = false →
      (∀ hz, exec (.setbaud hz) s = .refused (.facetNotHeld .busManager)) ∧
      (∀ mode, exec (.setfilt mode) s = .refused (.facetNotHeld .busManager)) ∧
      (∀ cb, exec (.regboff cb) s = .refused (.facetNotHeld .busManager)) ∧
      exec .buson s = .refused (.facetNotHeld .busManager)) ∧
    (s.trAcq = false →
      exec .baud s = .refused (.facetNotHeld .transceiver) ∧
      (∀ m, exec (.send m) s = .refused (.facetNotHeld .transceiver)) ∧
      exec .rxbuf s = .refused (.facetNotHeld .transceiver) ∧
      exec .rxcur s = .refused (.facetNotHeld .transceiver) ∧
      (∀ i, exec (.rdslot i) s = .refused (.facetNotHeld .transceiver)))

/-! ### Wire frames and the step -/

/-- A wire frame completes by arriving in the transport's receive ring (20_memory.md section 1, decision D19; entry 13):
byte by byte at `trx_cur`, wrapping modulo `M`, and nothing else changes. -/
def Obligations.WireFramesArrive : Prop :=
  ∀ s : State, 0 < s.cfg.trxCap → s.trxCur < s.cfg.trxCap → s.trx.wf →
    (∀ id len payload cr, ∃ t, exec (.stdData id len payload cr) s = .next t ∧
      Arrived s ([0x74] ++ id ++ [len] ++ payload ++ [cr]) t) ∧
    (∀ id len cr, ∃ t, exec (.stdRemote id len cr) s = .next t ∧ Arrived s ([0x72] ++ id ++ [len, cr]) t) ∧
    (∀ id len payload cr, ∃ t, exec (.extData id len payload cr) s = .next t ∧
      Arrived s ([0x54] ++ id ++ [len] ++ payload ++ [cr]) t) ∧
    (∀ id len cr, ∃ t, exec (.extRemote id len cr) s = .next t ∧ Arrived s ([0x52] ++ id ++ [len, cr]) t) ∧
    (∀ x cr, ∃ t, exec (.baudFrame x cr) s = .next t ∧ Arrived s [0x53, x, cr] t) ∧
    (∀ cr, ∃ t, exec (.openFrame cr) s = .next t ∧ Arrived s [0x4F, cr] t)

/-- A step runs the instruction its next input decodes to, on the state without that input (entry 11). -/
def Obligations.StepRunsDecodedInstruction : Prop :=
  ∀ (s : State) (bytes : List Byte) (rest : List Event) (i : Instr),
    (s.inputs = .op bytes :: rest → decodeHost bytes = .ok i → step s = exec i { s with inputs := rest }) ∧
    (s.inputs = .rx bytes :: rest → decodeWire bytes = .ok i → step s = exec i { s with inputs := rest }) ∧
    (s.inputs = eventOf bytes :: rest → decode bytes = .ok i → step s = exec i { s with inputs := rest })

/-- The PRODUCER may append any bytes, a frame or not (20_memory.md section 1): a step always takes them, whatever they are,
and does what their arriving does (entries 11, 13). -/
def Obligations.AnyReceivedBytesArrive : Prop :=
  ∀ (s : State) (bytes : List Byte) (rest : List Event), s.inputs = .rx bytes :: rest →
    0 < s.cfg.trxCap → s.trxCur < s.cfg.trxCap → s.trx.wf →
    ∃ t, step s = .next t ∧ Arrived { s with inputs := rest } bytes t

/-- What has no meaning is refused by name: a reserved select code (30_encoding.md section 6; that a code stands in
the first byte is entry 14's) and overlapping operations (60_exceptions.md section 5; entry 18). -/
def Obligations.MeaninglessRequestsAreRefused : Prop :=
  ∀ (s : State) (rest : List Event),
    (∀ (c : Byte) (ops : List Byte), s.inputs = .op (c :: ops) :: rest → 0xB ≤ c.toNat → c.toNat ≤ 0xF →
      step s = .refused (.reservedSelect c.toNat)) ∧
    (∀ a b, s.inputs = .overlap a b :: rest → step s = .refused .overlapping)

/-- Decoding the bytes of any well-formed instruction gives it back, every operand at every value (the operand bytes of the
host operations are entry 14's). -/
def Obligations.DecodeOfEncodedInstruction : Prop :=
  ∀ i : Instr, i.wellFormed = true → decode (encode i) = .ok i

/-- No two readings: the bytes of a decoded instruction are the bytes that were decoded, ill-formed digits included. -/
def Obligations.EncodeOfDecodedInstruction : Prop :=
  ∀ (bytes : List Byte) (i : Instr), decode bytes = .ok i → encode i = bytes

/-- Ten words. The six frames are written out from the spec's encodings (30_encoding.md section 3). The four host operations
are NOT: the spec gives them a 4-bit select code (section 6, decision D2) and no bytes, so the byte that holds the code and
the four operand bytes of SETBAUD, most significant first, are the model's own choice (entry 14). -/
def Obligations.SampleWordsDecode : Prop :=
  decode [0x74, 0x30, 0x30, 0x31, 0x33, 0x41, 0x42, 0x43, 0x44, 0x45, 0x46, 0x0D] =
    .ok (.stdData [0x30, 0x30, 0x31] 0x33 [0x41, 0x42, 0x43, 0x44, 0x45, 0x46] 0x0D) ∧
  decode [0x72, 0x31, 0x32, 0x33, 0x34, 0x0D] = .ok (.stdRemote [0x31, 0x32, 0x33] 0x34 0x0D) ∧
  decode [0x54, 0x30, 0x41, 0x42, 0x43, 0x44, 0x45, 0x46, 0x31, 0x31, 0x30, 0x41, 0x0D] =
    .ok (.extData [0x30, 0x41, 0x42, 0x43, 0x44, 0x45, 0x46, 0x31] 0x31 [0x30, 0x41] 0x0D) ∧
  decode [0x52, 0x31, 0x32, 0x33, 0x34, 0x35, 0x36, 0x37, 0x38, 0x38, 0x0D] =
    .ok (.extRemote [0x31, 0x32, 0x33, 0x34, 0x35, 0x36, 0x37, 0x38] 0x38 0x0D) ∧
  decode [0x53, 0x36, 0x0D] = .ok (.baudFrame 0x36 0x0D) ∧
  decode [0x4F, 0x0D] = .ok (.openFrame 0x0D) ∧
  decode [0x0] = .ok .acqbm ∧ decode [0x5] = .ok .buson ∧ decode [0x9] = .ok .rxcur ∧
  decode [0x2, 0x00, 0x07, 0xA1, 0x20] = .ok (.setbaud 500000)

/-! ### The codec -/

/-- R142: the sixteen upper-case digits, each read back as its value, none lower-case. -/
def Obligations.HexDigitsUpperCaseAndInvertible : Prop :=
  ∀ v : Nat, v < 16 →
    (v < 10 → (hexDig v).toNat = 0x30 + v) ∧ (10 ≤ v → (hexDig v).toNat = 0x41 + (v - 10)) ∧
    hexVal (hexDig v) = some v

/-- R143: a field is a number only if every byte is a digit; then it is the digits' value, below `16^w`. -/
def Obligations.ParseHexReadsWholeField : Prop :=
  ∀ s : List Byte,
    (∀ ds : List Nat, s.map hexVal = ds.map some →
      parseHex s = some (ds.foldl (fun v d => 16 * v + d) 0) ∧ ds.foldl (fun v d => 16 * v + d) 0 < 16 ^ s.length) ∧
    (none ∈ s.map hexVal → parseHex s = none)

/-- R66: most significant digit first: digit `j` of `w` carries bits `4(w-1-j)+3 .. 4(w-1-j)`; a payload byte is its high
nibble, then its low one, in both directions. -/
def Obligations.DigitsMostSignificantFirst : Prop :=
  (∀ w v j : Nat, j < w → (hexDigits w v)[j]? = some (hexDig ((v >>> (4 * (w - 1 - j))) % 16))) ∧
  (∀ p : Byte, payloadDigits [p] = [hexDig (p.toNat / 16), hexDig (p.toNat % 16)]) ∧
  (∀ (a b : Byte) (hi lo : Nat), hexVal a = some hi → hexVal b = some lo →
    parsePairs 1 [a, b] = some [BitVec.ofNat 8 (16 * hi + lo)]) ∧
  parsePairs 3 [0x41, 0x42, 0x43, 0x44, 0x45, 0x46] = some [0xAB, 0xCD, 0xEF]

/-- R103 and R104: the `t` and `r` frames, byte by byte. -/
def Obligations.StandardFrameFormat : Prop :=
  ∀ m : Message, m.extended = false → m.length ≤ 8 → m.id.toNat ≤ 0x7FF →
    (m.remoteRequest = false →
      (enc m).length = 6 + 2 * m.length ∧ (enc m)[0]? = some 0x74 ∧
      (enc m)[1]? = some (hexDig (m.id.toNat / 256 % 16)) ∧ (enc m)[2]? = some (hexDig (m.id.toNat / 16 % 16)) ∧
      (enc m)[3]? = some (hexDig (m.id.toNat % 16)) ∧ (enc m)[4]? = some (BitVec.ofNat 8 (0x30 + m.length)) ∧
      (∀ k (h : k < 8), k < m.length →
        (enc m)[5 + 2 * k]? = some (hexDig (m.payload[k].toNat / 16)) ∧
        (enc m)[6 + 2 * k]? = some (hexDig (m.payload[k].toNat % 16))) ∧
      (enc m)[5 + 2 * m.length]? = some 0x0D) ∧
    (m.remoteRequest = true →
      enc m = [0x72, hexDig (m.id.toNat / 256 % 16), hexDig (m.id.toNat / 16 % 16), hexDig (m.id.toNat % 16),
               BitVec.ofNat 8 (0x30 + m.length), 0x0D])

/-- R105 and R106: the `T` and `R` frames, byte by byte; byte 1 of a structurally valid message is '0' or '1'. -/
def Obligations.ExtendedFrameFormat : Prop :=
  ∀ m : Message, m.extended = true → m.length ≤ 8 → m.id.toNat ≤ 0x1FFFFFFF →
    (∀ j, j < 8 → (enc m)[1 + j]? = some (hexDig (m.id.toNat / 16 ^ (7 - j) % 16))) ∧
    ((enc m)[1]? = some 0x30 ∨ (enc m)[1]? = some 0x31) ∧
    (enc m)[9]? = some (BitVec.ofNat 8 (0x30 + m.length)) ∧
    (m.remoteRequest = false →
      (enc m).length = 11 + 2 * m.length ∧ (enc m)[0]? = some 0x54 ∧
      (∀ k (h : k < 8), k < m.length →
        (enc m)[10 + 2 * k]? = some (hexDig (m.payload[k].toNat / 16)) ∧
        (enc m)[11 + 2 * k]? = some (hexDig (m.payload[k].toNat % 16))) ∧
      (enc m)[10 + 2 * m.length]? = some 0x0D) ∧
    (m.remoteRequest = true → (enc m).length = 11 ∧ (enc m)[0]? = some 0x52 ∧ (enc m)[10]? = some 0x0D)

/-- R109: the command byte from the two flags, and the flags from the command byte. -/
def Obligations.CommandByteSelectsKind : Prop :=
  commandByte false false = 0x74 ∧ commandByte false true = 0x72 ∧ commandByte true false = 0x54 ∧
  commandByte true true = 0x52 ∧
  (∀ (c : Byte) (e r : Bool), frameKind c = some (e, r) ↔ c = commandByte e r) ∧
  (∀ e r : Bool, (commandByte e r).getLsbD 5 = !e) ∧
  (∀ e r : Bool, (commandByte e r).toNat % 16 = if r then 2 else 4)

/-- The length and the alphabet of an encoded message (40_codec.md section 3, derived there from `ENC` and `hexdig`). -/
def Obligations.EncodedLengthAndAlphabet : Prop :=
  ∀ m : Message, validMessage m = true →
    (enc m).length = (if m.extended then 11 else 6) + (if m.remoteRequest then 0 else 2 * m.length) ∧
    (enc m).length ≤ 27 ∧
    (∃ body, enc m = commandByte m.extended m.remoteRequest :: body ++ [0x0D] ∧
      ∀ b ∈ body, (0x30 ≤ b.toNat ∧ b.toNat ≤ 0x39) ∨ (0x41 ≤ b.toNat ∧ b.toNat ≤ 0x46))

/-- The round trip (40_codec.md section 5, first sentence): for every valid message, `DEC(ENC(m)) ~ m`, whatever the
don't-care bytes (`~` is decision D14; remote frames as conflict C1 resolves them). -/
def Obligations.DecodeOfEncodedMessage : Prop :=
  ∀ (pad : Nat → Byte) (m : Message), validMessage m = true → ∃ m', dec pad (enc m) = some m' ∧ Message.Equiv m' m

/-- The converse, on upper-case input (40_codec.md section 5, which derives it from `ENC` and `DEC`). -/
def Obligations.EncodeOfDecodedMessage : Prop :=
  ∀ (pad : Nat → Byte) (s : List Byte) (m : Message), dec pad s = some m → validMessage m = true →
    s.getLast? = some 0x0D → (∀ b ∈ s, ¬ (0x61 ≤ b.toNat ∧ b.toNat ≤ 0x66)) → enc m = s

/-- R147: `DEC` yields a message exactly on the bytes that carry one, and it is that message up to the bytes that carry no
meaning. -/
def Obligations.DecodeExactlyTheFrames : Prop :=
  ∀ (pad : Nat → Byte) (s : List Byte),
    (∀ m, dec pad s = some m → Carries s m) ∧
    (∀ m, Carries s m → ∃ m', dec pad s = some m' ∧ Message.Equiv m' m)

/-- R156: what makes `DEC` fail: a slice shorter than the minimum, a non-digit in an ID or payload field, a length digit
above '8'; and the two causes R156 says it omits, an unknown command byte and a wrong remaining length. -/
def Obligations.MalformedFramesFail : Prop :=
  ∀ (pad : Nat → Byte) (s : List Byte),
    (s = [] → dec pad s = none) ∧
    (∀ c, s[0]? = some c → frameKind c = none → dec pad s = none) ∧
    (∀ c ext rtr, s[0]? = some c → frameKind c = some (ext, rtr) →
      (s.length < (if ext then 11 else 6) → dec pad s = none) ∧
      (∀ j b, 1 ≤ j → j ≤ (if ext then 8 else 3) → s[j]? = some b → hexVal b = none → dec pad s = none) ∧
      (∀ ld, s[if ext then 9 else 4]? = some ld →
        (0x38 < ld.toNat → dec pad s = none) ∧
        (s.length ≠ (if ext then 11 else 6) + (if rtr then 0 else 2 * (ld - 0x30).toNat) → dec pad s = none) ∧
        (∀ j b, rtr = false → (if ext then 10 else 5) ≤ j → j < (if ext then 10 else 5) + 2 * (ld - 0x30).toNat →
          s[j]? = some b → hexVal b = none → dec pad s = none)))

/-- R157: the nine rates and their codes; any other value is unsupported. -/
def Obligations.BaudTableIsClosed : Prop :=
  ∀ (hz : Word) (x : Byte), baudCh hz = some x ↔
    (hz.toNat, x.toNat) ∈ [(10000, 0x30), (20000, 0x31), (50000, 0x32), (100000, 0x33), (125000, 0x34), (250000, 0x35),
      (500000, 0x36), (800000, 0x37), (1000000, 0x38)]

/-- R107 and R108: the `S` and `O` frames, and that a received segment beginning with either is malformed. -/
def Obligations.TransmitOnlyFramesAreNotDecoded : Prop :=
  (∀ hz x, baudCh hz = some x →
    0x30 ≤ x.toNat ∧ x.toNat ≤ 0x38 ∧ encode (.baudFrame x 0x0D) = [0x53, x, 0x0D] ∧
      (Instr.baudFrame x 0x0D).wellFormed = true) ∧
  baudCh 500000 = some 0x36 ∧ encode (.openFrame 0x0D) = [0x4F, 0x0D] ∧
  (∀ (pad : Nat → Byte) (rest : List Byte), dec pad (0x53 :: rest) = none ∧ dec pad (0x4F :: rest) = none)

/-- R239: SETBAUD (3 bytes), BUSON when closed (2) and SEND (6 to 27) emit, only when they return OK, at the end of the
stream; nothing else ever does. -/
def Obligations.OnlyThreeOperationsEmit : Prop :=
  ∀ (i : Instr) (s t : State), exec i s = .next t →
    ∃ bs, t.txlog = s.txlog ++ bs ∧
      (bs ≠ [] → t.reply = some ⟨.ok, none⟩ ∧
        ((∃ hz, i = .setbaud hz ∧ bs.length = 3) ∨ (i = .buson ∧ s.busOpen = false ∧ bs.length = 2) ∨
         (∃ m, i = .send m ∧ 6 ≤ bs.length ∧ bs.length ≤ 27))) ∧
      (t.reply = some ⟨.ok, none⟩ →
        ((∃ hz, i = .setbaud hz) ∨ (i = .buson ∧ s.busOpen = false) ∨ (∃ m, i = .send m)) → bs ≠ [])

/-- Whatever is emitted is one whole frame of the six (30_encoding.md sections 3 and 5). -/
def Obligations.EmittedBytesAreOneFrame : Prop :=
  ∀ (i : Instr) (s t : State), exec i s = .next t →
    ∃ bs, t.txlog = s.txlog ++ bs ∧ (bs = [] ∨ ∃ j, isWireFrame j = true ∧ j.wellFormed = true ∧ bs = encode j)

/-! ### The message ring -/

/-- R182: PUSH writes the whole slot at `widx` and no other, and advances `widx` by one modulo `N`. -/
def Obligations.PushWritesOneSlot : Prop :=
  ∀ (s : State) (m : Message), s.widx < s.ringCap →
    s.push m = { s with slots := (s.push m).slots, widx := (s.widx + 1) % s.ringCap } ∧
    (s.push m).slotRead s.widx = m ∧
    (∀ j, j ≠ s.widx → (s.push m).slotRead j = s.slotRead j) ∧
    (s.widx + 1 = s.ringCap → (s.push m).widx = 0) ∧
    (s.widx + 1 < s.ringCap → (s.push m).widx = s.widx + 1)

/-- R188 (positions by R187): after P pushes the ring holds exactly the last `min(N, P)` of them, each once, the k-th newest
at `(widx - k + N) mod N`, and every other slot is as it was. -/
def Obligations.OverwriteKeepsTheLastN : Prop :=
  ∀ (s : State) (ms : List Message), s.widx < s.ringCap →
    (∀ k, 1 ≤ k → k ≤ s.ringCap → k ≤ ms.length →
      (ms.foldl State.push s).slots.read (recentSlot (ms.foldl State.push s).widx k s.ringCap) = ms[ms.length - k]?) ∧
    (∀ k k', 1 ≤ k → k ≤ s.ringCap → 1 ≤ k' → k' ≤ s.ringCap →
      recentSlot (ms.foldl State.push s).widx k s.ringCap = recentSlot (ms.foldl State.push s).widx k' s.ringCap →
      k = k') ∧
    (∀ j, (∀ k, 1 ≤ k → k ≤ s.ringCap → k ≤ ms.length → j ≠ recentSlot (ms.foldl State.push s).widx k s.ringCap) →
      (ms.foldl State.push s).slots.read j = s.slots.read j)

/-- The consumer's delta (41_ring.md section 3) is the number of pushes modulo `N`, and the slots it names hold the newest
so many messages, oldest first: all of them if fewer than `N` arrived, else the aliasing of 41_ring.md section 4. -/
def Obligations.ConsumerReadsNewestMessages : Prop :=
  ∀ (s : State) (ms : List Message), s.widx < s.ringCap →
    consumerDelta (ms.foldl State.push s).widx s.widx s.ringCap = ms.length % s.ringCap ∧
    (consumedSlots (ms.foldl State.push s).widx s.widx s.ringCap).map (ms.foldl State.push s).slots.read =
      (ms.drop (ms.length - ms.length % s.ringCap)).map some

/-- R201: RXBUF and RXCUR run one pass each; no other instruction, and no arriving byte, runs the parser or touches the
ring; ACQTR alone creates them. -/
def Obligations.OnlyRxbufAndRxcurRunThePass : Prop :=
  (∀ (i : Instr) (s t : State), exec i s = .next t → runsPass i = true → t = { s.pass with reply := t.reply }) ∧
  (∀ (i : Instr) (s t : State), exec i s = .next t → runsPass i = false →
    t.asm = s.asm ∧ t.draws = s.draws ∧
    ((∀ req, i ≠ .acqtr req) →
      t.fill = s.fill ∧ t.lastCur = s.lastCur ∧ t.slots = s.slots ∧ t.widx = s.widx)) ∧
  (∀ (s t : State) (bytes : List Byte) (rest : List Event), s.inputs = .rx bytes :: rest → step s = .next t →
    t.asm = s.asm ∧ t.fill = s.fill ∧ t.lastCur = s.lastCur ∧ t.slots = s.slots ∧ t.widx = s.widx)

/-- The frame of RXBUF and RXCUR (42_parser.md section 2): they write `asm` below A - 1, `fill`, `last_cur`, `widx` and the
slots from `widx` on, one per push, and nothing else; without a CR among the new bytes, no slot. The model's own fields:
the reply, and `draws`, which counts the pushes (entry 7; nothing here rests on its value). -/
def Obligations.PassWritesParserAndRingOnly : Prop :=
  ∀ (i : Instr) (s t : State), runsPass i = true → exec i s = .next t →
    t = { s with slots := t.slots, widx := t.widx, asm := t.asm, fill := t.fill, lastCur := t.lastCur, draws := t.draws,
                 reply := t.reply } ∧
    s.draws ≤ t.draws ∧
    (∀ j, s.cfg.asmCap - 1 ≤ j → t.asm.read j = s.asm.read j) ∧
    (0x0D ∉ s.newBytes → t.slots = s.slots ∧ t.widx = s.widx) ∧
    (s.widx < s.ringCap →
      t.widx = (s.widx + (t.draws - s.draws)) % s.ringCap ∧
      ∀ j, (∀ k, k < t.draws - s.draws → j ≠ (s.widx + k) % s.ringCap) → t.slots.read j = s.slots.read j)

/-! ### The parser -/

/-- R203: the new-byte count is the cursor difference modulo `M`, at most `M - 1`, zero only without progress; and the
source's wrap example. -/
def Obligations.NewByteCountIsModular : Prop :=
  (∀ cur last M : Nat, cur < M → last < M →
    (newByteCount cur last M : Int) = ((cur : Int) - last + M) % M ∧ newByteCount cur last M ≤ M - 1 ∧
    (last + newByteCount cur last M) % M = cur ∧ (newByteCount cur last M = 0 ↔ cur = last)) ∧
  (∀ M : Nat, 4 ≤ M → newByteCount 1 (M - 2) M = 3 ∧ (M - 2 + 0) % M = M - 2 ∧ (M - 2 + 1) % M = M - 1 ∧
    (M - 2 + 2) % M = 0)

/-- R202 and R207: a pass takes the new bytes in transport order from `last_cur` on, one PBYTE each, and then commits the
cursor it sampled; with no new byte nothing changes. -/
def Obligations.PassTakesNewBytesInOrder : Prop :=
  ∀ (s : State) (bs : List Byte), s.lastCur < s.cfg.trxCap → s.trxCur < s.cfg.trxCap →
    bs.length = (s.trxCur + s.cfg.trxCap - s.lastCur) % s.cfg.trxCap →
    (∀ i (h : i < bs.length), bs[i] = s.trxRead ((s.lastCur + i) % s.cfg.trxCap)) →
    s.pass = { bs.foldl State.pbyte s with lastCur := s.trxCur } ∧ (bs = [] → s.pass = s)

/-- R205: a byte is stored while `fill <= A - 2` and dropped, changing nothing, when `fill = A - 1`; `asm[A-1]` is never
written and `fill` never exceeds `A - 1`. -/
def Obligations.AppendUnlessFull : Prop :=
  ∀ (s : State) (b : Byte), s.asm.wf → 1 ≤ s.cfg.asmCap → s.fill ≤ s.cfg.asmCap - 1 →
    (s.fill < s.cfg.asmCap - 1 →
      s.store b = { s with asm := (s.store b).asm, fill := s.fill + 1 } ∧ (s.store b).segment = s.segment ++ [b] ∧
      (∀ j, j ≠ s.fill → (s.store b).asm.read j = s.asm.read j)) ∧
    (s.fill = s.cfg.asmCap - 1 → s.store b = s) ∧
    (s.pbyte b).asm.read (s.cfg.asmCap - 1) = s.asm.read (s.cfg.asmCap - 1) ∧
    (s.pbyte b).fill ≤ s.cfg.asmCap - 1

/-- R204 and R206: a byte that is no CR is only stored or dropped; a CR, stored or not, has the segment decoded, a success
pushed, a failure dropped, and leaves the buffer empty in every case. -/
def Obligations.TerminatorEndsSegment : Prop :=
  ∀ s : State, s.asm.wf →
    (∀ b, b ≠ 0x0D → s.pbyte b = s.store b) ∧
    (s.pbyte 0x0D).fill = 0 ∧ (s.pbyte 0x0D).asm = (s.store 0x0D).asm ∧
    (∀ seg, seg = (if s.fill < s.cfg.asmCap - 1 then s.segment ++ [0x0D] else s.segment) →
      (∀ m, dec (s.store 0x0D).pad seg = some m →
        (s.pbyte 0x0D).slots = s.slots.write s.widx m ∧ (s.pbyte 0x0D).widx = (s.widx + 1) % s.ringCap) ∧
      (dec (s.store 0x0D).pad seg = none →
        (s.pbyte 0x0D).slots = s.slots ∧ (s.pbyte 0x0D).widx = s.widx ∧ (s.pbyte 0x0D).draws = s.draws))

/-- The parser as a state machine (42_parser.md section 3, derived there from PBYTE): IDLE, ACCUM and FULL under CR and
every other byte. -/
def Obligations.ParserStateMachine : Prop :=
  ∀ (s : State) (b : Byte), s.asm.wf → 3 ≤ s.cfg.asmCap → s.fill ≤ s.cfg.asmCap - 1 →
    (b ≠ 0x0D → s.parserMode = .idle → (s.pbyte b).parserMode = .accum ∧ (s.pbyte b).asm.read 0 = b) ∧
    (b = 0x0D → (s.pbyte b).parserMode = .idle) ∧
    (b = 0x0D → s.parserMode = .idle → (s.pbyte b).slots = s.slots ∧ (s.pbyte b).widx = s.widx) ∧
    (b ≠ 0x0D → s.parserMode = .accum → (s.pbyte b).fill = s.fill + 1 ∧
      (s.pbyte b).parserMode = (if s.fill + 1 = s.cfg.asmCap - 1 then .full else .accum)) ∧
    (b ≠ 0x0D → s.parserMode = .full → s.pbyte b = s) ∧
    (b = 0x0D → s.parserMode = .full → (s.pbyte b).asm = s.asm)

/-- R72 and R211: without progress a pass changes nothing; RXBUF and RXCUR repeated return the same value and change
nothing; BUSON is idempotent, SETFILT a no-op; ACQBM, ACQTR, SETBAUD, SEND and REGBOFF are not idempotent. -/
def Obligations.IdempotentAndNotIdempotent : Prop :=
  (∀ s : State, s.trxCur < s.cfg.trxCap → s.lastCur = s.trxCur → s.pass = s) ∧
  (∀ s t : State, s.trxCur < s.cfg.trxCap → s.lastCur < s.cfg.trxCap → exec .rxbuf s = .next t → exec .rxbuf t = .next t) ∧
  (∀ s t : State, s.trxCur < s.cfg.trxCap → s.lastCur < s.cfg.trxCap → exec .rxcur s = .next t → exec .rxcur t = .next t) ∧
  (∀ s t : State, exec .buson s = .next t → exec .buson t = .next t) ∧
  (∀ (s t : State) (mode : Token), exec (.setfilt mode) s = .next t → t = { s with reply := t.reply }) ∧
  (∀ s t : State, exec .acqbm s = .next t → t.reply = some ⟨.ok, none⟩ →
    exec .acqbm t = .next { t with reply := some ⟨.busy, none⟩ }) ∧
  (∀ (s t : State) (req req' : Word), exec (.acqtr req) s = .next t → t.reply = some ⟨.ok, none⟩ →
    exec (.acqtr req') t = .next { t with reply := some ⟨.busy, none⟩ }) ∧
  (∀ (s t : State) (hz : Word), exec (.setbaud hz) s = .next t → t.reply = some ⟨.ok, none⟩ →
    ∃ bs u, bs ≠ [] ∧ t.txlog = s.txlog ++ bs ∧ exec (.setbaud hz) t = .next u ∧ u.txlog = s.txlog ++ bs ++ bs) ∧
  (∀ (s t : State) (m : Message), exec (.send m) s = .next t → t.reply = some ⟨.ok, none⟩ →
    ∃ bs u, bs ≠ [] ∧ t.txlog = s.txlog ++ bs ∧ exec (.send m) t = .next u ∧ u.txlog = s.txlog ++ bs ++ bs) ∧
  (∀ (s t : State) (a b : Token), exec (.regboff a) s = .next t → ∃ u, exec (.regboff b) t = .next u ∧ u.boff = some b)

/-- Pass-split invariance (42_parser.md section 5): however a stream is cut into chunks with a pass after each (none of `M`
bytes or more), the parser and the ring end as one PBYTE per byte of the whole stream leaves them, messages compared
through `~`: the two runs draw their don't-care bytes apart. -/
def Obligations.PassSplitInvariance : Prop :=
  ∀ (s : State) (chunks : List (List Byte)), s.Inv → s.lastCur = s.trxCur →
    (∀ c ∈ chunks, c.length < s.cfg.trxCap) →
    ∀ t u, t = chunks.foldl (fun s c => (s.receive c).pass) s → u = chunks.flatten.foldl State.pbyte s →
      t.asm = u.asm ∧ t.fill = u.fill ∧ Slots.Equiv t.slots u.slots ∧ t.widx = u.widx ∧ t.draws = u.draws ∧
      t.lastCur = t.trxCur ∧ t.trxCur = (s.trxCur + chunks.flatten.length) % s.cfg.trxCap

/-- Overrun (20_memory.md section 5): of the bytes that arrived since the last pass, the next sees their number modulo `M`;
exactly `M` of them look like none. -/
def Obligations.OverrunSeesCountModuloM : Prop :=
  ∀ (s : State) (bs : List Byte), s.trxCur < s.cfg.trxCap → s.lastCur = s.trxCur →
    (s.receive bs).newBytes.length = bs.length % s.cfg.trxCap ∧
    (bs.length = s.cfg.trxCap → (s.receive bs).pass = s.receive bs)

/-- A truncated segment never yields a message (42_parser.md section 5, for A of at least 29, decision D4): more than
`A - 2` bytes before the CR. -/
def Obligations.TruncatedSegmentNeverDecodes : Prop :=
  ∀ (s : State) (bs : List Byte), s.Inv → s.fill = 0 → 0x0D ∉ bs → s.cfg.asmCap - 2 < bs.length →
    ∀ t, t = (bs ++ [0x0D]).foldl State.pbyte s →
      t.slots = s.slots ∧ t.widx = s.widx ∧ t.draws = s.draws ∧ t.fill = 0

/-- A segment whose first byte is no message frame's command byte (noise, a reply of the far-end adapter, `S`, `O`) is
dropped whole by the next pass, with status OK (42_parser.md section 5, 30_encoding.md section 5). -/
def Obligations.ForeignSegmentsAreDropped : Prop :=
  ∀ (s : State) (c : Byte) (seg : List Byte), s.Inv → s.CaughtUp → frameKind c = none → 0x0D ∉ c :: seg →
    seg.length + 2 < s.cfg.trxCap →
    ∃ t, exec .rxcur (s.receive (c :: seg ++ [0x0D])) = .next t ∧ t.slots = s.slots ∧ t.widx = s.widx ∧ t.fill = 0 ∧
      t.lastCur = t.trxCur ∧ t.reply = some ⟨.ok, some (.cursor s.widx)⟩

/-- R274: a malformed segment changes nothing but the assembly buffer, which it empties; it is reported to nobody: RXBUF and
RXCUR return OK whatever their pass met. -/
def Obligations.MalformedSegmentsDropSilently : Prop :=
  (∀ s : State, dec (s.store 0x0D).pad (s.store 0x0D).segment = none →
    s.pbyte 0x0D = { s with asm := (s.pbyte 0x0D).asm, fill := 0 }) ∧
  (∀ s : State, s.trAcq = true →
    (∃ t, exec .rxbuf s = .next t ∧ t.reply = some ⟨.ok, some (.extent t.ringCap)⟩) ∧
    (∃ t, exec .rxcur s = .next t ∧ t.reply = some ⟨.ok, some (.cursor t.widx)⟩))

/-- A pass pushes at most `1 + floor((M - 2) / 6)` messages (70_reset_and_hazards.md section 3); `draws` counts the pushes
(entry 7), and nothing here rests on its value. -/
def Obligations.PassPushesAreBounded : Prop :=
  ∀ s : State, s.Inv → s.pass.draws ≤ s.draws + 1 + (s.cfg.trxCap - 2) / 6

/-! ### End to end -/

/-- A frame of a valid message that arrives at a parser that waits for one enters the ring at the next RXCUR as a message `~`
the one sent, and `widx` advances by one: `t`, `r`, `T` and `R` (40_codec.md, 42_parser.md section 2; entry 13). -/
def Obligations.ReceivedFrameEntersTheRing : Prop :=
  ∀ (s : State) (m : Message), s.Inv → s.CaughtUp → validMessage m = true → (enc m).length < s.cfg.trxCap →
    ∃ t u m', exec (frameOf m) s = .next t ∧ exec .rxcur t = .next u ∧
      u.slots.read s.widx = some m' ∧ Message.Equiv m' m ∧ u.widx = (s.widx + 1) % s.ringCap ∧
      u.reply = some ⟨.ok, some (.cursor u.widx)⟩ ∧ u.fill = 0 ∧ u.lastCur = u.trxCur ∧
      (∀ j, j ≠ s.widx → u.slots.read j = s.slots.read j)

/-- Loopback (95_test_vectors.md P5): what one block sends, another that receives it holds in its ring, in order and `~`,
after one RXCUR. -/
def Obligations.LoopbackDeliversMessages : Prop :=
  ∀ (x y : State) (ms : List Message), (∀ m ∈ ms, validMessage m = true) → x.trAcq = true → x.busOpen = true →
    y.Inv → y.CaughtUp → (ms.flatMap enc).length < y.cfg.trxCap → ms.length ≤ y.ringCap →
    ∃ x' u, sendAll ms x = .next x' ∧ x'.txlog = x.txlog ++ ms.flatMap enc ∧
      exec .rxcur (y.receive (ms.flatMap enc)) = .next u ∧ u.widx = (y.widx + ms.length) % y.ringCap ∧
      (∀ j m, ms[j]? = some m → ∃ m', u.slots.read ((y.widx + j) % y.ringCap) = some m' ∧ Message.Equiv m' m)

/-! ### The whole machine -/

/-- What reset leaves (10_state.md section 8; `boff` = none is decision D24), and that the block does nothing until the host
issues an operation (70_reset_and_hazards.md section 1): with no input nothing changes, and arriving bytes change the
transport's ring only. -/
def Obligations.ResetStateAndIdleBlock : Prop :=
  State.reset.busOpen = false ∧ State.reset.bmAcq = false ∧ State.reset.trAcq = false ∧ State.reset.baud = 125000 ∧
  State.reset.boff = none ∧ State.reset.txlog = [] ∧
  (∀ s : State, s.inputs = [] → step s = .next s) ∧
  (∀ (s t : State) (bytes : List Byte) (rest : List Event), s.inputs = .rx bytes :: rest → step s = .next t →
    t = { s with inputs := rest, trx := t.trx, trxCur := t.trxCur })

/-- The well-formedness of the state holds at reset (10_state.md section 9; the fields of the ring and the parser hold entry
8's values there, and the parameters R8's defaults). -/
def Obligations.InvariantHoldsAtReset : Prop := State.reset.Inv

/-- Every step keeps the well-formedness of the state (10_state.md section 9), and the parameters of the instance. -/
def Obligations.EveryStepKeepsTheInvariant : Prop :=
  ∀ s t : State, s.Inv → step s = .next t → t.Inv ∧ t.cfg = s.cfg

/-- R31, R32 and R230: the three flags rise at most once and never fall, `bus_open` by BUSON alone, `bm_acq` by ACQBM alone,
`tr_acq` by ACQTR alone. -/
def Obligations.FlagsRiseOnceAndStay : Prop :=
  (State.reset.busOpen = false ∧ State.reset.bmAcq = false ∧ State.reset.trAcq = false) ∧
  (∀ s t : State, step s = .next t →
    (s.busOpen = true → t.busOpen = true) ∧ (s.bmAcq = true → t.bmAcq = true) ∧ (s.trAcq = true → t.trAcq = true)) ∧
  (∀ (i : Instr) (s t : State), exec i s = .next t →
    (s.busOpen = false → t.busOpen = true → i = .buson) ∧ (s.bmAcq = false → t.bmAcq = true → i = .acqbm) ∧
    (s.trAcq = false → t.trAcq = true → ∃ req, i = .acqtr req))

/-- R271, R272, R273 and R277: which operation returns which error, and when; and that an error records no value and changes
no element of the state. -/
def Obligations.ErrorStatusesAndTheirCauses : Prop :=
  ∀ (i : Instr) (s t : State), isWireFrame i = false → exec i s = .next t →
    ((∃ v, t.reply = some ⟨.busy, v⟩) ↔
      (i = .acqbm ∧ s.bmAcq = true) ∨ (∃ req, i = .acqtr req ∧ s.trAcq = true)) ∧
    ((∃ v, t.reply = some ⟨.notSupported, v⟩) ↔
      (∃ hz, i = .setbaud hz ∧ s.busOpen = false ∧ baudCh hz = none) ∨ (∃ m, i = .send m ∧ s.busOpen = false)) ∧
    ((∃ v, t.reply = some ⟨.notPermitted, v⟩) ↔ (∃ hz, i = .setbaud hz ∧ s.busOpen = true)) ∧
    (∀ e v, t.reply = some ⟨e, v⟩ → e ≠ .ok → v = none ∧ t = { s with reply := some ⟨e, none⟩ })

/-- R61: no host operation writes TRX; a pass reads of it exactly the bytes at `(last_cur + i) mod M` for `i` below the
new-byte count, so two rings that agree there give the same pass (messages compared through `~`); and no other operation reads it. -/
def Obligations.TransportRingIsReadOnly : Prop :=
  (∀ (i : Instr) (s t : State), isWireFrame i = false → exec i s = .next t → t.trx = s.trx ∧ t.trxCur = s.trxCur) ∧
  (∀ (s : State) (m : Memory),
    (∀ i, i < newByteCount s.trxCur s.lastCur s.cfg.trxCap →
      m.read ((s.lastCur + i) % s.cfg.trxCap) = s.trx.read ((s.lastCur + i) % s.cfg.trxCap)) →
    State.Equiv (State.pass { s with trx := m }) { s.pass with trx := m }) ∧
  (∀ (i : Instr) (s : State) (m : Memory), isWireFrame i = false → runsPass i = false →
    exec i { s with trx := m } = mapNext (fun t => { t with trx := m }) (exec i s))
end

