-- ==== Sys2Proof/Laws/Codec.lean ====
section
/-! SUPPORT. The codec's small lemmas: digits there and back, one field at a time, and the frame of a message. -/

namespace Sys2Proof

/-- Every digit the encoder emits is read back as its value. -/
theorem hexVal_hexDig {v : Nat} (h : v < 16) : hexVal (hexDig v) = some v := by
  interval_cases v <;> rfl

@[simp] theorem hexDigits_length (w v : Nat) : (hexDigits w v).length = w := by
  induction w with
  | zero => rfl
  | succ w ih => simp [hexDigits, ih]

/-- A field of `w` emitted digits is read back, behind whatever was read before. -/
theorem parseHexFrom_hexDigits (w v acc : Nat) :
    parseHexFrom acc (hexDigits w v) = some (acc * 16 ^ w + v % 16 ^ w) := by
  induction w generalizing acc with
  | zero => simp [hexDigits, parseHexFrom, Nat.mod_one]
  | succ w ih =>
    simp only [hexDigits, parseHexFrom, hexVal_hexDig (Nat.mod_lt _ (by decide : 16 > 0)), ih, Option.some.injEq]
    rw [pow_succ, Nat.mod_mul]
    ring

theorem parseHex_hexDigits {w v : Nat} (h : v < 16 ^ w) : parseHex (hexDigits w v) = some v := by
  simp [parseHex, parseHexFrom_hexDigits, Nat.mod_eq_of_lt h]

theorem lengthOf_lengthDigit {n : Nat} (h : n ≤ 8) : lengthOf (lengthDigit n) = n := by
  interval_cases n <;> rfl

@[simp] theorem payloadDigits_length (ps : List Byte) : (payloadDigits ps).length = 2 * ps.length := by
  induction ps with
  | nil => rfl
  | cons p ps ih =>
    simp only [payloadDigits, List.length_append, hexDigits_length, ih, List.length_cons]
    omega

/-- Payload pairs are read back, whatever follows them. -/
theorem parsePairs_payloadDigits (ps rest : List Byte) :
    parsePairs ps.length (payloadDigits ps ++ rest) = some ps := by
  induction ps with
  | nil => rfl
  | cons p ps ih =>
    have hp : parseHex (hexDigits 2 p.toNat) = some p.toNat := parseHex_hexDigits (w := 2) (by simpa using p.isLt)
    have h2 : (hexDigits 2 p.toNat).length = 2 := hexDigits_length _ _
    simp only [List.length_cons, parsePairs, payloadDigits, List.append_assoc]
    rw [List.take_left' h2, List.drop_left' h2, hp, ih]
    simp

@[simp] theorem frameKind_commandByte (e r : Bool) : frameKind (commandByte e r) = some (e, r) := by
  cases e <;> cases r <;> rfl

/-- `ENC(m)` is the frame of `m`, byte for byte. -/
theorem encode_frameOf (m : Message) : encode (Machine.frameOf m) = enc m := by
  unfold Machine.frameOf enc
  cases m.extended <;> cases m.remoteRequest <;> simp [encode, commandByte, idDigits]

theorem payloadOf_toList (f : Nat → Byte) : (payloadOf f).toList = [f 0, f 1, f 2, f 3, f 4, f 5, f 6, f 7] := rfl

/-- The first `n` bytes of a payload built by index. -/
theorem payloadOf_take (f : Nat → Byte) {n : Nat} (h : n ≤ 8) :
    (payloadOf f).toList.take n = (List.range n).map f := by
  interval_cases n <;> simp [payloadOf_toList, List.range_succ]

end Sys2Proof
end

