-- ==== Sys2Proof/Laws/Memory.lean ====
section
/-! SUPPORT. The laws of storage: a read after a write, and that every write keeps the canonical form and the index range. -/

namespace Sys2Proof.Machine

theorem Memory.wf_nil : Memory.wf [] := by simp [Memory.wf]

theorem Memory.wf_cons {a : Nat} {b : Byte} {m : Memory} :
    Memory.wf ((a, b) :: m) ↔ (∀ c ∈ m, a < c.1) ∧ b ≠ Memory.unlisted ∧ Memory.wf m := by
  simp only [Memory.wf, List.pairwise_cons, List.forall_mem_cons]
  tauto

/-- An index no cell lists reads as the unlisted byte. -/
theorem Memory.read_of_forall_ne {m : Memory} {i : Nat} (h : ∀ c ∈ m, c.1 ≠ i) : m.read i = Memory.unlisted := by
  induction m with
  | nil => rfl
  | cons c m ih =>
    have hc : c.1 ≠ i := h c (by simp)
    simp [Memory.read, hc, ih (fun d hd => h d (by simp [hd]))]

theorem Memory.read_write_other {m : Memory} {i j : Nat} (v : Byte) (h : j ≠ i) : (m.write i v).read j = m.read j := by
  induction m with
  | nil => by_cases hv : v = Memory.unlisted <;> simp [Memory.write, Memory.read, hv, h.symm]
  | cons c m ih =>
    obtain ⟨a, b⟩ := c
    simp only [Memory.write]
    split
    · split <;> simp [Memory.read, h.symm]
    · split
      · next hia =>
        subst hia
        split <;> simp [Memory.read, h.symm]
      · simp only [Memory.read, ih]

theorem Memory.read_write_same {m : Memory} {i : Nat} (v : Byte) (hm : m.wf) : (m.write i v).read i = v := by
  induction m with
  | nil => by_cases hv : v = Memory.unlisted <;> simp [Memory.write, Memory.read, hv]
  | cons c m ih =>
    obtain ⟨a, b⟩ := c
    rw [Memory.wf_cons] at hm
    simp only [Memory.write]
    split
    · next hia =>
      split
      · next hv =>
        rw [Memory.read_of_forall_ne, hv]
        intro c hc
        rcases List.mem_cons.1 hc with rfl | hc
        · exact Nat.ne_of_gt hia
        · have := hm.1 c hc
          omega
      · simp [Memory.read]
    · split
      · next hia =>
        subst hia
        split
        · next hv =>
          rw [Memory.read_of_forall_ne, hv]
          exact fun c hc => (hm.1 c hc).ne'
        · simp [Memory.read]
      · next hia => simp [Memory.read, Ne.symm hia, ih hm.2.2]

/-- The read of one byte after a write of one byte. -/
theorem Memory.read_write {m : Memory} (hm : m.wf) (i j : Nat) (v : Byte) :
    (m.write i v).read j = if j = i then v else m.read j := by
  split
  · next h => rw [h, Memory.read_write_same v hm]
  · next h => exact Memory.read_write_other v h

/-- Every cell of a written memory is the written one or was there. -/
theorem Memory.mem_write {m : Memory} {i : Nat} {v : Byte} {c : Host.Cell} (h : c ∈ m.write i v) : c = (i, v) ∨ c ∈ m := by
  induction m with
  | nil =>
    simp only [Memory.write] at h
    split at h <;> simp_all
  | cons d m ih =>
    obtain ⟨a, b⟩ := d
    simp only [Memory.write] at h
    split at h
    · split at h
      · exact .inr h
      · exact List.mem_cons.1 h
    · split at h
      · split at h
        · exact .inr (List.mem_cons_of_mem _ h)
        · rcases List.mem_cons.1 h with h | h
          · exact .inl h
          · exact .inr (List.mem_cons_of_mem _ h)
      · rcases List.mem_cons.1 h with h | h
        · exact .inr (h ▸ List.mem_cons_self)
        · exact (ih h).imp_right (List.mem_cons_of_mem _)

/-- A write keeps the canonical form. -/
theorem Memory.write_wf {m : Memory} (hm : m.wf) (i : Nat) (v : Byte) : (m.write i v).wf := by
  induction m with
  | nil => by_cases hv : v = Memory.unlisted <;> simp [Memory.write, Memory.wf, hv]
  | cons c m ih =>
    obtain ⟨a, b⟩ := c
    have hm' := hm
    rw [Memory.wf_cons] at hm
    simp only [Memory.write]
    split
    · next hia =>
      split
      · exact hm'
      · next hv =>
        rw [Memory.wf_cons]
        refine ⟨fun c hc => ?_, hv, hm'⟩
        rcases List.mem_cons.1 hc with rfl | hc
        · exact hia
        · exact hia.trans (hm.1 c hc)
    · split
      · next hia =>
        subst hia
        split
        · exact hm.2.2
        · next hv => exact Memory.wf_cons.2 ⟨hm.1, hv, hm.2.2⟩
      · next h1 h2 =>
        refine Memory.wf_cons.2 ⟨fun c hc => ?_, hm.2.1, ih hm.2.2⟩
        rcases Memory.mem_write hc with rfl | hc
        · show a < i
          omega
        · exact hm.1 c hc

theorem Memory.write_range {m : Memory} {i n : Nat} {v : Byte} (hm : ∀ c ∈ m, c.1 < n) (hi : i < n) :
    ∀ c ∈ m.write i v, c.1 < n := by
  intro c hc
  rcases Memory.mem_write hc with rfl | hc
  · exact hi
  · exact hm c hc

/-! ### The message ring's slots -/

theorem Slots.read_write_other {r : Slots} {i j : Nat} (m : Message) (h : j ≠ i) : (r.write i m).read j = r.read j := by
  induction r with
  | nil => simp [Slots.write, Slots.read, h.symm]
  | cons c r ih =>
    obtain ⟨a, b⟩ := c
    simp only [Slots.write]
    split
    · simp [Slots.read, h.symm]
    · split
      · next hia =>
        subst hia
        simp [Slots.read, h.symm]
      · simp only [Slots.read, ih]

theorem Slots.read_write_same {r : Slots} {i : Nat} (m : Message) : (r.write i m).read i = some m := by
  induction r with
  | nil => simp [Slots.write, Slots.read]
  | cons c r ih =>
    obtain ⟨a, b⟩ := c
    simp only [Slots.write]
    split
    · simp [Slots.read]
    · split
      · simp [Slots.read]
      · next h => simp [Slots.read, Ne.symm h, ih]

/-- The read of one slot after a write of one slot. -/
theorem Slots.read_write (r : Slots) (i j : Nat) (m : Message) :
    (r.write i m).read j = if j = i then some m else r.read j := by
  split
  · next h => rw [h, Slots.read_write_same]
  · next h => exact Slots.read_write_other m h

theorem Slots.mem_write {r : Slots} {i : Nat} {m : Message} {c : Nat × Message} (h : c ∈ r.write i m) :
    c = (i, m) ∨ c ∈ r := by
  induction r with
  | nil => simp_all [Slots.write]
  | cons d r ih =>
    obtain ⟨a, b⟩ := d
    simp only [Slots.write] at h
    split at h
    · exact List.mem_cons.1 h
    · split at h
      · rcases List.mem_cons.1 h with h | h
        · exact .inl h
        · exact .inr (List.mem_cons_of_mem _ h)
      · rcases List.mem_cons.1 h with h | h
        · exact .inr (h ▸ List.mem_cons_self)
        · exact (ih h).imp_right (List.mem_cons_of_mem _)

/-- A write keeps the canonical form. -/
theorem Slots.write_wf {r : Slots} (hr : r.wf) (i : Nat) (m : Message) : (r.write i m).wf := by
  induction r with
  | nil => simp [Slots.write]
  | cons c r ih =>
    obtain ⟨a, b⟩ := c
    have hr' := hr
    rw [Slots.wf, List.pairwise_cons] at hr
    simp only [Slots.write]
    split
    · next hia =>
      refine List.pairwise_cons.2 ⟨fun c hc => ?_, hr'⟩
      rcases List.mem_cons.1 hc with rfl | hc
      · exact hia
      · exact hia.trans (hr.1 c hc)
    · split
      · next hia =>
        subst hia
        exact List.pairwise_cons.2 ⟨hr.1, hr.2⟩
      · refine List.pairwise_cons.2 ⟨fun c hc => ?_, ih hr.2⟩
        rcases Slots.mem_write hc with rfl | hc
        · show a < i
          omega
        · exact hr.1 c hc

/-- A property of every written message is kept by writing one that has it. -/
theorem Slots.write_forall {r : Slots} {i : Nat} {m : Message} {p : Nat × Message → Prop} (hr : ∀ c ∈ r, p c)
    (hm : p (i, m)) : ∀ c ∈ r.write i m, p c := by
  intro c hc
  rcases Slots.mem_write hc with rfl | hc
  · exact hm
  · exact hr c hc

end Sys2Proof.Machine
end

