-- ==== Sys2Proof/Laws/State.lean ====
section
/-! SUPPORT. What each update of the state does to each field: one lemma per field per update, so that no proof unfolds a
record update. -/

namespace Sys2Proof.Machine

variable (s : State)

@[simp] theorem State.finish_cfg (v : Option Value) : (s.finish v).cfg = s.cfg := rfl
@[simp] theorem State.finish_baud (v : Option Value) : (s.finish v).baud = s.baud := rfl
@[simp] theorem State.finish_busOpen (v : Option Value) : (s.finish v).busOpen = s.busOpen := rfl
@[simp] theorem State.finish_bmAcq (v : Option Value) : (s.finish v).bmAcq = s.bmAcq := rfl
@[simp] theorem State.finish_trAcq (v : Option Value) : (s.finish v).trAcq = s.trAcq := rfl
@[simp] theorem State.finish_boff (v : Option Value) : (s.finish v).boff = s.boff := rfl
@[simp] theorem State.finish_ringCap (v : Option Value) : (s.finish v).ringCap = s.ringCap := rfl
@[simp] theorem State.finish_slots (v : Option Value) : (s.finish v).slots = s.slots := rfl
@[simp] theorem State.finish_widx (v : Option Value) : (s.finish v).widx = s.widx := rfl
@[simp] theorem State.finish_asm (v : Option Value) : (s.finish v).asm = s.asm := rfl
@[simp] theorem State.finish_fill (v : Option Value) : (s.finish v).fill = s.fill := rfl
@[simp] theorem State.finish_lastCur (v : Option Value) : (s.finish v).lastCur = s.lastCur := rfl
@[simp] theorem State.finish_trx (v : Option Value) : (s.finish v).trx = s.trx := rfl
@[simp] theorem State.finish_trxCur (v : Option Value) : (s.finish v).trxCur = s.trxCur := rfl
@[simp] theorem State.finish_txlog (v : Option Value) : (s.finish v).txlog = s.txlog := rfl
@[simp] theorem State.finish_reply (v : Option Value) : (s.finish v).reply = some ⟨.ok, v⟩ := rfl
@[simp] theorem State.finish_draws (v : Option Value) : (s.finish v).draws = s.draws := rfl
@[simp] theorem State.finish_inputs (v : Option Value) : (s.finish v).inputs = s.inputs := rfl

@[simp] theorem State.raise_cfg (e : Status) : (s.raise e).cfg = s.cfg := rfl
@[simp] theorem State.raise_baud (e : Status) : (s.raise e).baud = s.baud := rfl
@[simp] theorem State.raise_busOpen (e : Status) : (s.raise e).busOpen = s.busOpen := rfl
@[simp] theorem State.raise_bmAcq (e : Status) : (s.raise e).bmAcq = s.bmAcq := rfl
@[simp] theorem State.raise_trAcq (e : Status) : (s.raise e).trAcq = s.trAcq := rfl
@[simp] theorem State.raise_boff (e : Status) : (s.raise e).boff = s.boff := rfl
@[simp] theorem State.raise_ringCap (e : Status) : (s.raise e).ringCap = s.ringCap := rfl
@[simp] theorem State.raise_slots (e : Status) : (s.raise e).slots = s.slots := rfl
@[simp] theorem State.raise_widx (e : Status) : (s.raise e).widx = s.widx := rfl
@[simp] theorem State.raise_asm (e : Status) : (s.raise e).asm = s.asm := rfl
@[simp] theorem State.raise_fill (e : Status) : (s.raise e).fill = s.fill := rfl
@[simp] theorem State.raise_lastCur (e : Status) : (s.raise e).lastCur = s.lastCur := rfl
@[simp] theorem State.raise_trx (e : Status) : (s.raise e).trx = s.trx := rfl
@[simp] theorem State.raise_trxCur (e : Status) : (s.raise e).trxCur = s.trxCur := rfl
@[simp] theorem State.raise_txlog (e : Status) : (s.raise e).txlog = s.txlog := rfl
@[simp] theorem State.raise_reply (e : Status) : (s.raise e).reply = some ⟨e, none⟩ := rfl
@[simp] theorem State.raise_draws (e : Status) : (s.raise e).draws = s.draws := rfl
@[simp] theorem State.raise_inputs (e : Status) : (s.raise e).inputs = s.inputs := rfl

@[simp] theorem State.tx_cfg (bs : List Byte) : (s.tx bs).cfg = s.cfg := rfl
@[simp] theorem State.tx_baud (bs : List Byte) : (s.tx bs).baud = s.baud := rfl
@[simp] theorem State.tx_busOpen (bs : List Byte) : (s.tx bs).busOpen = s.busOpen := rfl
@[simp] theorem State.tx_bmAcq (bs : List Byte) : (s.tx bs).bmAcq = s.bmAcq := rfl
@[simp] theorem State.tx_trAcq (bs : List Byte) : (s.tx bs).trAcq = s.trAcq := rfl
@[simp] theorem State.tx_boff (bs : List Byte) : (s.tx bs).boff = s.boff := rfl
@[simp] theorem State.tx_ringCap (bs : List Byte) : (s.tx bs).ringCap = s.ringCap := rfl
@[simp] theorem State.tx_slots (bs : List Byte) : (s.tx bs).slots = s.slots := rfl
@[simp] theorem State.tx_widx (bs : List Byte) : (s.tx bs).widx = s.widx := rfl
@[simp] theorem State.tx_asm (bs : List Byte) : (s.tx bs).asm = s.asm := rfl
@[simp] theorem State.tx_fill (bs : List Byte) : (s.tx bs).fill = s.fill := rfl
@[simp] theorem State.tx_lastCur (bs : List Byte) : (s.tx bs).lastCur = s.lastCur := rfl
@[simp] theorem State.tx_trx (bs : List Byte) : (s.tx bs).trx = s.trx := rfl
@[simp] theorem State.tx_trxCur (bs : List Byte) : (s.tx bs).trxCur = s.trxCur := rfl
@[simp] theorem State.tx_txlog (bs : List Byte) : (s.tx bs).txlog = s.txlog ++ bs := rfl
@[simp] theorem State.tx_reply (bs : List Byte) : (s.tx bs).reply = s.reply := rfl
@[simp] theorem State.tx_draws (bs : List Byte) : (s.tx bs).draws = s.draws := rfl
@[simp] theorem State.tx_inputs (bs : List Byte) : (s.tx bs).inputs = s.inputs := rfl

@[simp] theorem State.produce_cfg (b : Byte) : (s.produce b).cfg = s.cfg := rfl
@[simp] theorem State.produce_baud (b : Byte) : (s.produce b).baud = s.baud := rfl
@[simp] theorem State.produce_busOpen (b : Byte) : (s.produce b).busOpen = s.busOpen := rfl
@[simp] theorem State.produce_bmAcq (b : Byte) : (s.produce b).bmAcq = s.bmAcq := rfl
@[simp] theorem State.produce_trAcq (b : Byte) : (s.produce b).trAcq = s.trAcq := rfl
@[simp] theorem State.produce_boff (b : Byte) : (s.produce b).boff = s.boff := rfl
@[simp] theorem State.produce_ringCap (b : Byte) : (s.produce b).ringCap = s.ringCap := rfl
@[simp] theorem State.produce_slots (b : Byte) : (s.produce b).slots = s.slots := rfl
@[simp] theorem State.produce_widx (b : Byte) : (s.produce b).widx = s.widx := rfl
@[simp] theorem State.produce_asm (b : Byte) : (s.produce b).asm = s.asm := rfl
@[simp] theorem State.produce_fill (b : Byte) : (s.produce b).fill = s.fill := rfl
@[simp] theorem State.produce_lastCur (b : Byte) : (s.produce b).lastCur = s.lastCur := rfl
@[simp] theorem State.produce_trx (b : Byte) : (s.produce b).trx = s.trx.write s.trxCur b := rfl
@[simp] theorem State.produce_trxCur (b : Byte) : (s.produce b).trxCur = (s.trxCur + 1) % s.cfg.trxCap := rfl
@[simp] theorem State.produce_txlog (b : Byte) : (s.produce b).txlog = s.txlog := rfl
@[simp] theorem State.produce_reply (b : Byte) : (s.produce b).reply = s.reply := rfl
@[simp] theorem State.produce_draws (b : Byte) : (s.produce b).draws = s.draws := rfl
@[simp] theorem State.produce_inputs (b : Byte) : (s.produce b).inputs = s.inputs := rfl

@[simp] theorem State.append_cfg (b : Byte) : (s.append b).cfg = s.cfg := rfl
@[simp] theorem State.append_baud (b : Byte) : (s.append b).baud = s.baud := rfl
@[simp] theorem State.append_busOpen (b : Byte) : (s.append b).busOpen = s.busOpen := rfl
@[simp] theorem State.append_bmAcq (b : Byte) : (s.append b).bmAcq = s.bmAcq := rfl
@[simp] theorem State.append_trAcq (b : Byte) : (s.append b).trAcq = s.trAcq := rfl
@[simp] theorem State.append_boff (b : Byte) : (s.append b).boff = s.boff := rfl
@[simp] theorem State.append_ringCap (b : Byte) : (s.append b).ringCap = s.ringCap := rfl
@[simp] theorem State.append_slots (b : Byte) : (s.append b).slots = s.slots := rfl
@[simp] theorem State.append_widx (b : Byte) : (s.append b).widx = s.widx := rfl
@[simp] theorem State.append_asm (b : Byte) : (s.append b).asm = s.asm.write s.fill b := rfl
@[simp] theorem State.append_fill (b : Byte) : (s.append b).fill = s.fill + 1 := rfl
@[simp] theorem State.append_lastCur (b : Byte) : (s.append b).lastCur = s.lastCur := rfl
@[simp] theorem State.append_trx (b : Byte) : (s.append b).trx = s.trx := rfl
@[simp] theorem State.append_trxCur (b : Byte) : (s.append b).trxCur = s.trxCur := rfl
@[simp] theorem State.append_txlog (b : Byte) : (s.append b).txlog = s.txlog := rfl
@[simp] theorem State.append_reply (b : Byte) : (s.append b).reply = s.reply := rfl
@[simp] theorem State.append_draws (b : Byte) : (s.append b).draws = s.draws := rfl
@[simp] theorem State.append_inputs (b : Byte) : (s.append b).inputs = s.inputs := rfl

@[simp] theorem State.emptyAsm_cfg : (s.emptyAsm).cfg = s.cfg := rfl
@[simp] theorem State.emptyAsm_baud : (s.emptyAsm).baud = s.baud := rfl
@[simp] theorem State.emptyAsm_busOpen : (s.emptyAsm).busOpen = s.busOpen := rfl
@[simp] theorem State.emptyAsm_bmAcq : (s.emptyAsm).bmAcq = s.bmAcq := rfl
@[simp] theorem State.emptyAsm_trAcq : (s.emptyAsm).trAcq = s.trAcq := rfl
@[simp] theorem State.emptyAsm_boff : (s.emptyAsm).boff = s.boff := rfl
@[simp] theorem State.emptyAsm_ringCap : (s.emptyAsm).ringCap = s.ringCap := rfl
@[simp] theorem State.emptyAsm_slots : (s.emptyAsm).slots = s.slots := rfl
@[simp] theorem State.emptyAsm_widx : (s.emptyAsm).widx = s.widx := rfl
@[simp] theorem State.emptyAsm_asm : (s.emptyAsm).asm = s.asm := rfl
@[simp] theorem State.emptyAsm_fill : (s.emptyAsm).fill = 0 := rfl
@[simp] theorem State.emptyAsm_lastCur : (s.emptyAsm).lastCur = s.lastCur := rfl
@[simp] theorem State.emptyAsm_trx : (s.emptyAsm).trx = s.trx := rfl
@[simp] theorem State.emptyAsm_trxCur : (s.emptyAsm).trxCur = s.trxCur := rfl
@[simp] theorem State.emptyAsm_txlog : (s.emptyAsm).txlog = s.txlog := rfl
@[simp] theorem State.emptyAsm_reply : (s.emptyAsm).reply = s.reply := rfl
@[simp] theorem State.emptyAsm_draws : (s.emptyAsm).draws = s.draws := rfl
@[simp] theorem State.emptyAsm_inputs : (s.emptyAsm).inputs = s.inputs := rfl

@[simp] theorem State.drawn_cfg : (s.drawn).cfg = s.cfg := rfl
@[simp] theorem State.drawn_baud : (s.drawn).baud = s.baud := rfl
@[simp] theorem State.drawn_busOpen : (s.drawn).busOpen = s.busOpen := rfl
@[simp] theorem State.drawn_bmAcq : (s.drawn).bmAcq = s.bmAcq := rfl
@[simp] theorem State.drawn_trAcq : (s.drawn).trAcq = s.trAcq := rfl
@[simp] theorem State.drawn_boff : (s.drawn).boff = s.boff := rfl
@[simp] theorem State.drawn_ringCap : (s.drawn).ringCap = s.ringCap := rfl
@[simp] theorem State.drawn_slots : (s.drawn).slots = s.slots := rfl
@[simp] theorem State.drawn_widx : (s.drawn).widx = s.widx := rfl
@[simp] theorem State.drawn_asm : (s.drawn).asm = s.asm := rfl
@[simp] theorem State.drawn_fill : (s.drawn).fill = s.fill := rfl
@[simp] theorem State.drawn_lastCur : (s.drawn).lastCur = s.lastCur := rfl
@[simp] theorem State.drawn_trx : (s.drawn).trx = s.trx := rfl
@[simp] theorem State.drawn_trxCur : (s.drawn).trxCur = s.trxCur := rfl
@[simp] theorem State.drawn_txlog : (s.drawn).txlog = s.txlog := rfl
@[simp] theorem State.drawn_reply : (s.drawn).reply = s.reply := rfl
@[simp] theorem State.drawn_draws : (s.drawn).draws = s.draws + 1 := rfl
@[simp] theorem State.drawn_inputs : (s.drawn).inputs = s.inputs := rfl

@[simp] theorem State.commitCursor_cfg (c : Nat) : (s.commitCursor c).cfg = s.cfg := rfl
@[simp] theorem State.commitCursor_baud (c : Nat) : (s.commitCursor c).baud = s.baud := rfl
@[simp] theorem State.commitCursor_busOpen (c : Nat) : (s.commitCursor c).busOpen = s.busOpen := rfl
@[simp] theorem State.commitCursor_bmAcq (c : Nat) : (s.commitCursor c).bmAcq = s.bmAcq := rfl
@[simp] theorem State.commitCursor_trAcq (c : Nat) : (s.commitCursor c).trAcq = s.trAcq := rfl
@[simp] theorem State.commitCursor_boff (c : Nat) : (s.commitCursor c).boff = s.boff := rfl
@[simp] theorem State.commitCursor_ringCap (c : Nat) : (s.commitCursor c).ringCap = s.ringCap := rfl
@[simp] theorem State.commitCursor_slots (c : Nat) : (s.commitCursor c).slots = s.slots := rfl
@[simp] theorem State.commitCursor_widx (c : Nat) : (s.commitCursor c).widx = s.widx := rfl
@[simp] theorem State.commitCursor_asm (c : Nat) : (s.commitCursor c).asm = s.asm := rfl
@[simp] theorem State.commitCursor_fill (c : Nat) : (s.commitCursor c).fill = s.fill := rfl
@[simp] theorem State.commitCursor_lastCur (c : Nat) : (s.commitCursor c).lastCur = c := rfl
@[simp] theorem State.commitCursor_trx (c : Nat) : (s.commitCursor c).trx = s.trx := rfl
@[simp] theorem State.commitCursor_trxCur (c : Nat) : (s.commitCursor c).trxCur = s.trxCur := rfl
@[simp] theorem State.commitCursor_txlog (c : Nat) : (s.commitCursor c).txlog = s.txlog := rfl
@[simp] theorem State.commitCursor_reply (c : Nat) : (s.commitCursor c).reply = s.reply := rfl
@[simp] theorem State.commitCursor_draws (c : Nat) : (s.commitCursor c).draws = s.draws := rfl
@[simp] theorem State.commitCursor_inputs (c : Nat) : (s.commitCursor c).inputs = s.inputs := rfl

@[simp] theorem State.push_cfg (m : Message) : (s.push m).cfg = s.cfg := rfl
@[simp] theorem State.push_baud (m : Message) : (s.push m).baud = s.baud := rfl
@[simp] theorem State.push_busOpen (m : Message) : (s.push m).busOpen = s.busOpen := rfl
@[simp] theorem State.push_bmAcq (m : Message) : (s.push m).bmAcq = s.bmAcq := rfl
@[simp] theorem State.push_trAcq (m : Message) : (s.push m).trAcq = s.trAcq := rfl
@[simp] theorem State.push_boff (m : Message) : (s.push m).boff = s.boff := rfl
@[simp] theorem State.push_ringCap (m : Message) : (s.push m).ringCap = s.ringCap := rfl
@[simp] theorem State.push_slots (m : Message) : (s.push m).slots = s.slots.write s.widx m := rfl
@[simp] theorem State.push_widx (m : Message) : (s.push m).widx = (s.widx + 1) % s.ringCap := rfl
@[simp] theorem State.push_asm (m : Message) : (s.push m).asm = s.asm := rfl
@[simp] theorem State.push_fill (m : Message) : (s.push m).fill = s.fill := rfl
@[simp] theorem State.push_lastCur (m : Message) : (s.push m).lastCur = s.lastCur := rfl
@[simp] theorem State.push_trx (m : Message) : (s.push m).trx = s.trx := rfl
@[simp] theorem State.push_trxCur (m : Message) : (s.push m).trxCur = s.trxCur := rfl
@[simp] theorem State.push_txlog (m : Message) : (s.push m).txlog = s.txlog := rfl
@[simp] theorem State.push_reply (m : Message) : (s.push m).reply = s.reply := rfl
@[simp] theorem State.push_draws (m : Message) : (s.push m).draws = s.draws := rfl
@[simp] theorem State.push_inputs (m : Message) : (s.push m).inputs = s.inputs := rfl

@[simp] theorem State.setBaud_cfg (hz : Word) : (s.setBaud hz).cfg = s.cfg := rfl
@[simp] theorem State.setBaud_baud (hz : Word) : (s.setBaud hz).baud = hz := rfl
@[simp] theorem State.setBaud_busOpen (hz : Word) : (s.setBaud hz).busOpen = s.busOpen := rfl
@[simp] theorem State.setBaud_bmAcq (hz : Word) : (s.setBaud hz).bmAcq = s.bmAcq := rfl
@[simp] theorem State.setBaud_trAcq (hz : Word) : (s.setBaud hz).trAcq = s.trAcq := rfl
@[simp] theorem State.setBaud_boff (hz : Word) : (s.setBaud hz).boff = s.boff := rfl
@[simp] theorem State.setBaud_ringCap (hz : Word) : (s.setBaud hz).ringCap = s.ringCap := rfl
@[simp] theorem State.setBaud_slots (hz : Word) : (s.setBaud hz).slots = s.slots := rfl
@[simp] theorem State.setBaud_widx (hz : Word) : (s.setBaud hz).widx = s.widx := rfl
@[simp] theorem State.setBaud_asm (hz : Word) : (s.setBaud hz).asm = s.asm := rfl
@[simp] theorem State.setBaud_fill (hz : Word) : (s.setBaud hz).fill = s.fill := rfl
@[simp] theorem State.setBaud_lastCur (hz : Word) : (s.setBaud hz).lastCur = s.lastCur := rfl
@[simp] theorem State.setBaud_trx (hz : Word) : (s.setBaud hz).trx = s.trx := rfl
@[simp] theorem State.setBaud_trxCur (hz : Word) : (s.setBaud hz).trxCur = s.trxCur := rfl
@[simp] theorem State.setBaud_txlog (hz : Word) : (s.setBaud hz).txlog = s.txlog := rfl
@[simp] theorem State.setBaud_reply (hz : Word) : (s.setBaud hz).reply = s.reply := rfl
@[simp] theorem State.setBaud_draws (hz : Word) : (s.setBaud hz).draws = s.draws := rfl
@[simp] theorem State.setBaud_inputs (hz : Word) : (s.setBaud hz).inputs = s.inputs := rfl

@[simp] theorem State.setBoff_cfg (cb : Token) : (s.setBoff cb).cfg = s.cfg := rfl
@[simp] theorem State.setBoff_baud (cb : Token) : (s.setBoff cb).baud = s.baud := rfl
@[simp] theorem State.setBoff_busOpen (cb : Token) : (s.setBoff cb).busOpen = s.busOpen := rfl
@[simp] theorem State.setBoff_bmAcq (cb : Token) : (s.setBoff cb).bmAcq = s.bmAcq := rfl
@[simp] theorem State.setBoff_trAcq (cb : Token) : (s.setBoff cb).trAcq = s.trAcq := rfl
@[simp] theorem State.setBoff_boff (cb : Token) : (s.setBoff cb).boff = some cb := rfl
@[simp] theorem State.setBoff_ringCap (cb : Token) : (s.setBoff cb).ringCap = s.ringCap := rfl
@[simp] theorem State.setBoff_slots (cb : Token) : (s.setBoff cb).slots = s.slots := rfl
@[simp] theorem State.setBoff_widx (cb : Token) : (s.setBoff cb).widx = s.widx := rfl
@[simp] theorem State.setBoff_asm (cb : Token) : (s.setBoff cb).asm = s.asm := rfl
@[simp] theorem State.setBoff_fill (cb : Token) : (s.setBoff cb).fill = s.fill := rfl
@[simp] theorem State.setBoff_lastCur (cb : Token) : (s.setBoff cb).lastCur = s.lastCur := rfl
@[simp] theorem State.setBoff_trx (cb : Token) : (s.setBoff cb).trx = s.trx := rfl
@[simp] theorem State.setBoff_trxCur (cb : Token) : (s.setBoff cb).trxCur = s.trxCur := rfl
@[simp] theorem State.setBoff_txlog (cb : Token) : (s.setBoff cb).txlog = s.txlog := rfl
@[simp] theorem State.setBoff_reply (cb : Token) : (s.setBoff cb).reply = s.reply := rfl
@[simp] theorem State.setBoff_draws (cb : Token) : (s.setBoff cb).draws = s.draws := rfl
@[simp] theorem State.setBoff_inputs (cb : Token) : (s.setBoff cb).inputs = s.inputs := rfl

@[simp] theorem State.takeBusManager_cfg : (s.takeBusManager).cfg = s.cfg := rfl
@[simp] theorem State.takeBusManager_baud : (s.takeBusManager).baud = s.baud := rfl
@[simp] theorem State.takeBusManager_busOpen : (s.takeBusManager).busOpen = s.busOpen := rfl
@[simp] theorem State.takeBusManager_bmAcq : (s.takeBusManager).bmAcq = true := rfl
@[simp] theorem State.takeBusManager_trAcq : (s.takeBusManager).trAcq = s.trAcq := rfl
@[simp] theorem State.takeBusManager_boff : (s.takeBusManager).boff = s.boff := rfl
@[simp] theorem State.takeBusManager_ringCap : (s.takeBusManager).ringCap = s.ringCap := rfl
@[simp] theorem State.takeBusManager_slots : (s.takeBusManager).slots = s.slots := rfl
@[simp] theorem State.takeBusManager_widx : (s.takeBusManager).widx = s.widx := rfl
@[simp] theorem State.takeBusManager_asm : (s.takeBusManager).asm = s.asm := rfl
@[simp] theorem State.takeBusManager_fill : (s.takeBusManager).fill = s.fill := rfl
@[simp] theorem State.takeBusManager_lastCur : (s.takeBusManager).lastCur = s.lastCur := rfl
@[simp] theorem State.takeBusManager_trx : (s.takeBusManager).trx = s.trx := rfl
@[simp] theorem State.takeBusManager_trxCur : (s.takeBusManager).trxCur = s.trxCur := rfl
@[simp] theorem State.takeBusManager_txlog : (s.takeBusManager).txlog = s.txlog := rfl
@[simp] theorem State.takeBusManager_reply : (s.takeBusManager).reply = s.reply := rfl
@[simp] theorem State.takeBusManager_draws : (s.takeBusManager).draws = s.draws := rfl
@[simp] theorem State.takeBusManager_inputs : (s.takeBusManager).inputs = s.inputs := rfl

@[simp] theorem State.openBus_cfg : (s.openBus).cfg = s.cfg := rfl
@[simp] theorem State.openBus_baud : (s.openBus).baud = s.baud := rfl
@[simp] theorem State.openBus_busOpen : (s.openBus).busOpen = true := rfl
@[simp] theorem State.openBus_bmAcq : (s.openBus).bmAcq = s.bmAcq := rfl
@[simp] theorem State.openBus_trAcq : (s.openBus).trAcq = s.trAcq := rfl
@[simp] theorem State.openBus_boff : (s.openBus).boff = s.boff := rfl
@[simp] theorem State.openBus_ringCap : (s.openBus).ringCap = s.ringCap := rfl
@[simp] theorem State.openBus_slots : (s.openBus).slots = s.slots := rfl
@[simp] theorem State.openBus_widx : (s.openBus).widx = s.widx := rfl
@[simp] theorem State.openBus_asm : (s.openBus).asm = s.asm := rfl
@[simp] theorem State.openBus_fill : (s.openBus).fill = s.fill := rfl
@[simp] theorem State.openBus_lastCur : (s.openBus).lastCur = s.lastCur := rfl
@[simp] theorem State.openBus_trx : (s.openBus).trx = s.trx := rfl
@[simp] theorem State.openBus_trxCur : (s.openBus).trxCur = s.trxCur := rfl
@[simp] theorem State.openBus_txlog : (s.openBus).txlog = s.txlog := rfl
@[simp] theorem State.openBus_reply : (s.openBus).reply = s.reply := rfl
@[simp] theorem State.openBus_draws : (s.openBus).draws = s.draws := rfl
@[simp] theorem State.openBus_inputs : (s.openBus).inputs = s.inputs := rfl

@[simp] theorem State.createTransceiver_cfg (n : Nat) : (s.createTransceiver n).cfg = s.cfg := rfl
@[simp] theorem State.createTransceiver_baud (n : Nat) : (s.createTransceiver n).baud = s.baud := rfl
@[simp] theorem State.createTransceiver_busOpen (n : Nat) : (s.createTransceiver n).busOpen = s.busOpen := rfl
@[simp] theorem State.createTransceiver_bmAcq (n : Nat) : (s.createTransceiver n).bmAcq = s.bmAcq := rfl
@[simp] theorem State.createTransceiver_trAcq (n : Nat) : (s.createTransceiver n).trAcq = true := rfl
@[simp] theorem State.createTransceiver_boff (n : Nat) : (s.createTransceiver n).boff = s.boff := rfl
@[simp] theorem State.createTransceiver_ringCap (n : Nat) : (s.createTransceiver n).ringCap = n := rfl
@[simp] theorem State.createTransceiver_slots (n : Nat) : (s.createTransceiver n).slots = [] := rfl
@[simp] theorem State.createTransceiver_widx (n : Nat) : (s.createTransceiver n).widx = 0 := rfl
@[simp] theorem State.createTransceiver_asm (n : Nat) : (s.createTransceiver n).asm = s.asm := rfl
@[simp] theorem State.createTransceiver_fill (n : Nat) : (s.createTransceiver n).fill = 0 := rfl
@[simp] theorem State.createTransceiver_lastCur (n : Nat) : (s.createTransceiver n).lastCur = s.initialCursor := rfl
@[simp] theorem State.createTransceiver_trx (n : Nat) : (s.createTransceiver n).trx = s.trx := rfl
@[simp] theorem State.createTransceiver_trxCur (n : Nat) : (s.createTransceiver n).trxCur = s.trxCur := rfl
@[simp] theorem State.createTransceiver_txlog (n : Nat) : (s.createTransceiver n).txlog = s.txlog := rfl
@[simp] theorem State.createTransceiver_reply (n : Nat) : (s.createTransceiver n).reply = s.reply := rfl
@[simp] theorem State.createTransceiver_draws (n : Nat) : (s.createTransceiver n).draws = s.draws := rfl
@[simp] theorem State.createTransceiver_inputs (n : Nat) : (s.createTransceiver n).inputs = s.inputs := rfl

end Sys2Proof.Machine
end

