-- ==== Sys2Proof/Laws/Ops.lean ====
section
/-! SUPPORT. What each shared operation can do, said once: the facet precondition, arriving bytes, the assembly buffer, the
parser's byte step and its pass. -/

namespace Sys2Proof.Machine

/-! ### The facet precondition -/

theorem withFacet_of_holds {f : Facet} {s : State} (h : s.holds f = true) (run : Host.Outcome State Fault Refusal) :
    withFacet f s run = run := by simp [withFacet, h]

theorem withFacet_of_not_holds {f : Facet} {s : State} (h : s.holds f = false) (run : Host.Outcome State Fault Refusal) :
    withFacet f s run = .refused (.facetNotHeld f) := by simp [withFacet, h]

theorem withFacet_eq_next {f : Facet} {s t : State} {run : Host.Outcome State Fault Refusal} :
    withFacet f s run = .next t ↔ s.holds f = true ∧ run = .next t := by
  unfold withFacet
  split <;> simp_all

@[simp] theorem State.holds_busManager (s : State) : s.holds .busManager = s.bmAcq := rfl
@[simp] theorem State.holds_transceiver (s : State) : s.holds .transceiver = s.trAcq := rfl

/-! ### Arriving bytes -/

@[simp] theorem State.receive_nil (s : State) : s.receive [] = s := rfl
@[simp] theorem State.receive_cons (s : State) (b : Byte) (bs : List Byte) :
    s.receive (b :: bs) = (s.produce b).receive bs := rfl

theorem State.receive_append (s : State) (as bs : List Byte) : s.receive (as ++ bs) = (s.receive as).receive bs := by
  simp [State.receive, List.foldl_append]

/-- Arriving bytes change `trx` and `trx_cur` only. -/
theorem State.receive_frame (s : State) (bs : List Byte) :
    s.receive bs = { s with trx := (s.receive bs).trx, trxCur := (s.receive bs).trxCur } := by
  induction bs generalizing s with
  | nil => rfl
  | cons b bs ih =>
    rw [State.receive_cons, ih]
    rfl

theorem State.receive_trxCur (s : State) (bs : List Byte) (h : s.trxCur < s.cfg.trxCap) :
    (s.receive bs).trxCur = (s.trxCur + bs.length) % s.cfg.trxCap := by
  induction bs generalizing s with
  | nil => simp [Nat.mod_eq_of_lt h]
  | cons b bs ih =>
    rw [State.receive_cons, ih _ (by simpa using Nat.mod_lt _ (by omega))]
    simp only [State.produce_trxCur, State.produce_cfg, List.length_cons, Nat.mod_add_mod]
    congr 1
    omega

@[simp] theorem State.receive_cfg (s : State) (bs : List Byte) : (s.receive bs).cfg = s.cfg := by rw [State.receive_frame]
@[simp] theorem State.receive_trAcq (s : State) (bs : List Byte) : (s.receive bs).trAcq = s.trAcq := by
  rw [State.receive_frame]
@[simp] theorem State.receive_bmAcq (s : State) (bs : List Byte) : (s.receive bs).bmAcq = s.bmAcq := by
  rw [State.receive_frame]
@[simp] theorem State.receive_lastCur (s : State) (bs : List Byte) : (s.receive bs).lastCur = s.lastCur := by
  rw [State.receive_frame]

theorem State.receive_trx_wf {s : State} (h : s.trx.wf) (bs : List Byte) : (s.receive bs).trx.wf := by
  induction bs generalizing s with
  | nil => exact h
  | cons b bs ih => exact ih (s := s.produce b) (Memory.write_wf h _ _)

/-! ### The assembly buffer -/

@[simp] theorem State.segment_length (s : State) : s.segment.length = s.fill := by simp [State.segment]

/-- The storage spaces of the reset state are in their canonical forms. -/
theorem State.reset_storage_wf : State.reset.trx.wf ∧ State.reset.asm.wf ∧ State.reset.slots.wf :=
  ⟨Memory.wf_nil, Memory.wf_nil, List.Pairwise.nil⟩

/-- Storing a byte keeps the assembly buffer's canonical form. -/
theorem State.append_asm_wf {s : State} (h : s.asm.wf) (b : Byte) : (s.append b).asm.wf := Memory.write_wf h _ _

/-- A push keeps the ring's canonical form. -/
theorem State.push_slots_wf {s : State} (h : s.slots.wf) (m : Message) : (s.push m).slots.wf := Slots.write_wf h _ _

/-- Storing a byte adds it to the segment. -/
theorem State.segment_append {s : State} (h : s.asm.wf) (b : Byte) : (s.append b).segment = s.segment ++ [b] := by
  simp only [State.segment, State.append_fill, State.append_asm, List.range_succ, List.map_append, List.map_cons,
    List.map_nil, Memory.read_write_same b h, List.append_cancel_right_eq]
  refine List.map_congr_left fun i hi => ?_
  exact Memory.read_write_other b (by have := List.mem_range.1 hi; omega)

/-! ### The parser's byte step -/

theorem State.store_of_room {s : State} (h : s.fill < s.cfg.asmCap - 1) (b : Byte) : s.store b = s.append b := by
  simp [State.store, h]

theorem State.store_of_full {s : State} (h : ¬ s.fill < s.cfg.asmCap - 1) (b : Byte) : s.store b = s := by
  simp [State.store, h]

theorem State.endSegment_of_some {s : State} {m : Message} (h : dec s.pad s.segment = some m) :
    s.endSegment = ((s.push m).drawn).emptyAsm := by simp [State.endSegment, h]

theorem State.endSegment_of_none {s : State} (h : dec s.pad s.segment = none) : s.endSegment = s.emptyAsm := by
  simp [State.endSegment, h]

theorem State.pbyte_cr (s : State) : s.pbyte crByte = (s.store crByte).endSegment := by simp [State.pbyte]

theorem State.pbyte_of_ne {b : Byte} (s : State) (h : b ≠ crByte) : s.pbyte b = s.store b := by simp [State.pbyte, h]

/-- Two states that agree outside the parser and the ring: all a parser's byte step leaves alone. -/
def SameOutsideParser (s t : State) : Prop :=
  t = { s with slots := t.slots, widx := t.widx, asm := t.asm, fill := t.fill, draws := t.draws }

theorem SameOutsideParser.refl (s : State) : SameOutsideParser s s := rfl

theorem SameOutsideParser.trans {s t u : State} (h : SameOutsideParser s t) (k : SameOutsideParser t u) :
    SameOutsideParser s u := by
  unfold SameOutsideParser at *
  rw [k, h]

theorem State.store_frame (s : State) (b : Byte) : SameOutsideParser s (s.store b) := by
  unfold State.store
  split <;> rfl

theorem State.endSegment_frame (s : State) : SameOutsideParser s s.endSegment := by
  unfold State.endSegment
  split <;> rfl

theorem State.pbyte_frame (s : State) (b : Byte) : SameOutsideParser s (s.pbyte b) := by
  unfold State.pbyte
  split
  · exact (s.store_frame b).trans (State.endSegment_frame _)
  · exact s.store_frame b

theorem State.foldl_pbyte_frame (s : State) (bs : List Byte) : SameOutsideParser s (bs.foldl State.pbyte s) := by
  induction bs generalizing s with
  | nil => rfl
  | cons b bs ih => exact (s.pbyte_frame b).trans (ih _)

@[simp] theorem State.foldl_pbyte_cfg (s : State) (bs : List Byte) : (bs.foldl State.pbyte s).cfg = s.cfg := by
  rw [s.foldl_pbyte_frame bs]
@[simp] theorem State.foldl_pbyte_trx (s : State) (bs : List Byte) : (bs.foldl State.pbyte s).trx = s.trx := by
  rw [s.foldl_pbyte_frame bs]
@[simp] theorem State.foldl_pbyte_trxCur (s : State) (bs : List Byte) : (bs.foldl State.pbyte s).trxCur = s.trxCur := by
  rw [s.foldl_pbyte_frame bs]
@[simp] theorem State.foldl_pbyte_lastCur (s : State) (bs : List Byte) :
    (bs.foldl State.pbyte s).lastCur = s.lastCur := by
  rw [s.foldl_pbyte_frame bs]
@[simp] theorem State.foldl_pbyte_ringCap (s : State) (bs : List Byte) :
    (bs.foldl State.pbyte s).ringCap = s.ringCap := by
  rw [s.foldl_pbyte_frame bs]
@[simp] theorem State.foldl_pbyte_trAcq (s : State) (bs : List Byte) : (bs.foldl State.pbyte s).trAcq = s.trAcq := by
  rw [s.foldl_pbyte_frame bs]

/-! ### The pass -/

theorem State.pass_of_no_bytes {s : State} (h : newByteCount s.trxCur s.lastCur s.cfg.trxCap = 0) : s.pass = s := by
  simp [State.pass, h]

theorem State.pass_of_bytes {s : State} (h : newByteCount s.trxCur s.lastCur s.cfg.trxCap ≠ 0) :
    s.pass = (s.newBytes.foldl State.pbyte s).commitCursor s.trxCur := by
  simp [State.pass, h]

/-- A pass writes the parser, the ring and `last_cur` only. -/
theorem State.pass_frame (s : State) :
    s.pass = { s with slots := s.pass.slots, widx := s.pass.widx, asm := s.pass.asm, fill := s.pass.fill,
                      draws := s.pass.draws, lastCur := s.pass.lastCur } := by
  unfold State.pass
  split
  · rfl
  · have h := s.foldl_pbyte_frame s.newBytes
    unfold SameOutsideParser at h
    rw [State.commitCursor]
    rw [h]

@[simp] theorem State.pass_cfg (s : State) : s.pass.cfg = s.cfg := by rw [State.pass_frame]
@[simp] theorem State.pass_baud (s : State) : s.pass.baud = s.baud := by rw [State.pass_frame]
@[simp] theorem State.pass_busOpen (s : State) : s.pass.busOpen = s.busOpen := by rw [State.pass_frame]
@[simp] theorem State.pass_bmAcq (s : State) : s.pass.bmAcq = s.bmAcq := by rw [State.pass_frame]
@[simp] theorem State.pass_trAcq (s : State) : s.pass.trAcq = s.trAcq := by rw [State.pass_frame]
@[simp] theorem State.pass_boff (s : State) : s.pass.boff = s.boff := by rw [State.pass_frame]
@[simp] theorem State.pass_ringCap (s : State) : s.pass.ringCap = s.ringCap := by rw [State.pass_frame]
@[simp] theorem State.pass_trx (s : State) : s.pass.trx = s.trx := by rw [State.pass_frame]
@[simp] theorem State.pass_trxCur (s : State) : s.pass.trxCur = s.trxCur := by rw [State.pass_frame]
@[simp] theorem State.pass_txlog (s : State) : s.pass.txlog = s.txlog := by rw [State.pass_frame]
@[simp] theorem State.pass_reply (s : State) : s.pass.reply = s.reply := by rw [State.pass_frame]
@[simp] theorem State.pass_inputs (s : State) : s.pass.inputs = s.inputs := by rw [State.pass_frame]

@[simp] theorem State.newBytes_length (s : State) :
    s.newBytes.length = newByteCount s.trxCur s.lastCur s.cfg.trxCap := by simp [State.newBytes]

end Sys2Proof.Machine
end

