-- ==== Sys2Proof/Laws/Equiv.lean ====
section
/-! SUPPORT. The laws of `~` (R12, R23): what two runs that draw their don't-care bytes apart still have in common. -/

namespace Sys2Proof.Machine

theorem Message.Equiv.refl (m : Message) : Message.Equiv m m := ⟨rfl, rfl, rfl, rfl, fun _ => rfl⟩

theorem Slots.Equiv.refl (r : Slots) : Slots.Equiv r r := List.forall₂_same.2 fun _ _ => ⟨rfl, Message.Equiv.refl _⟩

/-- Writing `~` messages to one index of `~` rings gives `~` rings. -/
theorem Slots.Equiv.write {r r' : Slots} {m m' : Message} (h : Slots.Equiv r r') (hm : Message.Equiv m m') (i : Nat) :
    Slots.Equiv (r.write i m) (r'.write i m') := by
  unfold Slots.Equiv at *
  induction h with
  | nil => exact .cons ⟨rfl, hm⟩ .nil
  | @cons c d r r' hc hr ih =>
    obtain ⟨a, p⟩ := c
    obtain ⟨a', p'⟩ := d
    obtain ⟨rfl, hp⟩ := hc
    simp only [Slots.write]
    split
    · exact .cons ⟨rfl, hm⟩ (.cons ⟨rfl, hp⟩ hr)
    · split
      · exact .cons ⟨rfl, hm⟩ hr
      · exact .cons ⟨rfl, hp⟩ ih

/-- `~` rings hold `~` messages at the same indices. -/
theorem Slots.Equiv.read {r r' : Slots} (h : Slots.Equiv r r') (i : Nat) :
    Option.Rel Message.Equiv (r.read i) (r'.read i) := by
  unfold Slots.Equiv at h
  induction h with
  | nil => exact .none
  | @cons c d r r' hc hr ih =>
    obtain ⟨a, p⟩ := c
    obtain ⟨a', p'⟩ := d
    obtain ⟨rfl, hp⟩ := hc
    simp only [Slots.read]
    split
    · exact .some hp
    · exact ih

/-- How many bytes `parsePairs n` yields. -/
theorem parsePairs_length {n : Nat} {s ps : List Byte} (h : parsePairs n s = some ps) : ps.length = n := by
  induction n generalizing s ps with
  | zero => cases h; rfl
  | succ n ih =>
    simp only [parsePairs] at h
    split at h
    · next hr => cases h; simp [ih hr]
    · cases h

/-- Two payloads that agree below `n` agree on their first `n` bytes. -/
theorem payloadOf_take_congr {f g : Nat → Byte} {n : Nat} (hn : n ≤ 8) (h : ∀ k, k < n → f k = g k) :
    (payloadOf f).toList.take n = (payloadOf g).toList.take n := by
  rw [payloadOf_take f hn, payloadOf_take g hn]
  exact List.map_congr_left fun k hk => h k (List.mem_range.1 hk)

/-- Whether `DEC` accepts, and everything it yields but the don't-care bytes, is the same whatever those are (R153). -/
theorem dec_pad_equiv (pad pad' : Nat → Byte) (s : List Byte) : Option.Rel Message.Equiv (dec pad s) (dec pad' s) := by
  unfold dec
  cases s with
  | nil => exact .none
  | cons c rest =>
    dsimp only
    split
    · exact .none
    · next ext rtr _ =>
      split
      · exact .none
      · split
        · exact .none
        · split
          · exact .none
          · next h8 =>
            split
            · exact .none
            · split
              · exact .none
              · next data hd =>
                refine .some ⟨rfl, rfl, rfl, rfl, fun hr => payloadOf_take_congr (Nat.not_lt.1 h8) fun k hk => ?_⟩
                obtain rfl : rtr = false := hr
                have hl := parsePairs_length (by simpa using hd)
                have hk : k < data.length := by rw [hl]; exact hk
                simp [List.getD_eq_getElem?_getD, List.getElem?_eq_getElem hk]

/-- Two parsers with the same bytes waiting and `~` rings: all that a byte step reads, but for the don't-care draw. -/
structure ParserEquiv (s t : State) : Prop where
  cfg : s.cfg = t.cfg
  ringCap : s.ringCap = t.ringCap
  widx : s.widx = t.widx
  asm : s.asm = t.asm
  fill : s.fill = t.fill
  draws : s.draws = t.draws
  slots : Slots.Equiv s.slots t.slots

theorem ParserEquiv.refl (s : State) : ParserEquiv s s := ⟨rfl, rfl, rfl, rfl, rfl, rfl, Slots.Equiv.refl _⟩

theorem ParserEquiv.store {s t : State} (h : ParserEquiv s t) (b : Byte) : ParserEquiv (s.store b) (t.store b) := by
  simp only [State.store, h.cfg, h.fill]
  split
  · exact { cfg := h.cfg, ringCap := h.ringCap, widx := h.widx, draws := h.draws, slots := h.slots
            asm := by simp [h.asm, h.fill], fill := by simp [h.fill] }
  · exact h

theorem ParserEquiv.segment {s t : State} (h : ParserEquiv s t) : s.segment = t.segment := by
  simp [State.segment, h.asm, h.fill]

theorem ParserEquiv.endSegment {s t : State} (h : ParserEquiv s t) : ParserEquiv s.endSegment t.endSegment := by
  have hd := dec_pad_equiv s.pad t.pad s.segment
  unfold State.endSegment
  rw [← h.segment]
  cases hs : dec s.pad s.segment <;> cases ht : dec t.pad s.segment <;> rw [hs, ht] at hd <;> cases hd
  · exact { h with fill := rfl }
  · next hm =>
    exact { cfg := h.cfg, ringCap := h.ringCap, asm := h.asm, fill := rfl
            widx := by simp [h.widx, h.ringCap], draws := by simp [h.draws]
            slots := by simpa [h.widx] using h.slots.write hm t.widx }

/-- The same byte keeps two parsers `~`. -/
theorem ParserEquiv.pbyte {s t : State} (h : ParserEquiv s t) (b : Byte) : ParserEquiv (s.pbyte b) (t.pbyte b) := by
  unfold State.pbyte
  split
  · exact (h.store b).endSegment
  · exact h.store b

/-- The same bytes keep two parsers `~`. -/
theorem ParserEquiv.foldl {s t : State} (h : ParserEquiv s t) (bs : List Byte) :
    ParserEquiv (bs.foldl State.pbyte s) (bs.foldl State.pbyte t) := by
  induction bs generalizing s t with
  | nil => exact h
  | cons b bs ih => exact ih (h.pbyte b)

end Sys2Proof.Machine
end

