-- ==== Sys2Proof/Laws/Exec.lean ====
section
/-! SUPPORT. What one instruction, and one step, can do: an inversion lemma for each, which invariants cite instead of
unfolding `exec` or `step`. -/

namespace Sys2Proof.Machine

/-! ### One lemma per instruction -/

theorem exec_acqbm_next {s t : State} (h : exec .acqbm s = .next t) :
    (s.bmAcq = true ∧ t = s.raise .busy) ∨ (s.bmAcq = false ∧ t = s.takeBusManager.finish none) := by
  simp only [exec, execAcqbm] at h
  split at h <;> simp_all

theorem exec_acqtr_next {req : Word} {s t : State} (h : exec (.acqtr req) s = .next t) :
    (s.trAcq = true ∧ t = s.raise .busy) ∨
    (s.trAcq = false ∧ s.tooLarge req = false ∧ t = (s.createTransceiver (ringCapacity req)).finish none) := by
  simp only [exec, execAcqtr] at h
  split at h
  · simp_all
  · split at h <;> simp_all

theorem exec_setbaud_next {hz : Word} {s t : State} (h : exec (.setbaud hz) s = .next t) :
    s.bmAcq = true ∧
    ((s.busOpen = true ∧ t = s.raise .notPermitted) ∨
     (s.busOpen = false ∧ baudCh hz = none ∧ t = s.raise .notSupported) ∨
     (∃ x, s.busOpen = false ∧ baudCh hz = some x ∧
        t = ((s.tx (encode (.baudFrame x crByte))).setBaud hz).finish none)) := by
  simp only [exec, execSetbaud, withFacet_eq_next] at h
  refine ⟨h.1, ?_⟩
  have h := h.2
  split at h
  · simp_all
  · split at h <;> simp_all

theorem exec_setfilt_next {mode : Token} {s t : State} (h : exec (.setfilt mode) s = .next t) :
    s.bmAcq = true ∧ t = s.finish none := by
  obtain ⟨hf, hn⟩ := withFacet_eq_next.1 h
  cases hn
  exact ⟨hf, rfl⟩

theorem exec_regboff_next {cb : Token} {s t : State} (h : exec (.regboff cb) s = .next t) :
    s.bmAcq = true ∧ t = (s.setBoff cb).finish none := by
  obtain ⟨hf, hn⟩ := withFacet_eq_next.1 h
  cases hn
  exact ⟨hf, rfl⟩

theorem exec_buson_next {s t : State} (h : exec .buson s = .next t) :
    s.bmAcq = true ∧
    ((s.busOpen = true ∧ t = s.finish none) ∨
     (s.busOpen = false ∧ t = ((s.tx (encode (.openFrame crByte))).openBus).finish none)) := by
  simp only [exec, execBuson, withFacet_eq_next] at h
  refine ⟨h.1, ?_⟩
  have h := h.2
  split at h <;> simp_all

theorem exec_baud_next {s t : State} (h : exec .baud s = .next t) :
    s.trAcq = true ∧ t = s.finish (some (.rate s.baud)) := by
  obtain ⟨hf, hn⟩ := withFacet_eq_next.1 h
  cases hn
  exact ⟨hf, rfl⟩

theorem exec_send_next {m : Message} {s t : State} (h : exec (.send m) s = .next t) :
    s.trAcq = true ∧
    ((s.busOpen = true ∧ validMessage m = true ∧ t = (s.tx (enc m)).finish none) ∨
     (s.busOpen = false ∧ t = s.raise .notSupported)) := by
  simp only [exec, execSend, withFacet_eq_next] at h
  refine ⟨h.1, ?_⟩
  have h := h.2
  split at h
  · split at h <;> simp_all
  · simp_all

theorem exec_rxbuf_next {s t : State} (h : exec .rxbuf s = .next t) :
    s.trAcq = true ∧ t = s.pass.finish (some (.extent s.ringCap)) := by
  obtain ⟨hf, hn⟩ := withFacet_eq_next.1 h
  cases hn
  exact ⟨hf, by rw [State.pass_ringCap]⟩

theorem exec_rxcur_next {s t : State} (h : exec .rxcur s = .next t) :
    s.trAcq = true ∧ t = s.pass.finish (some (.cursor s.pass.widx)) := by
  obtain ⟨hf, hn⟩ := withFacet_eq_next.1 h
  cases hn
  exact ⟨hf, rfl⟩

theorem exec_rdslot_next {i : Word} {s t : State} (h : exec (.rdslot i) s = .next t) :
    s.trAcq = true ∧ s.inView i = true ∧ t = s.finish (some (.message (s.slotRead i.toNat))) := by
  simp only [exec, execRdslot, withFacet_eq_next] at h
  refine ⟨h.1, ?_⟩
  have h := h.2
  split at h <;> simp_all

/-- A wire frame arrives, and completes in every state. -/
theorem exec_wire {i : Instr} (s : State)
    (h : (∃ id len p cr, i = .stdData id len p cr) ∨ (∃ id len cr, i = .stdRemote id len cr) ∨
      (∃ id len p cr, i = .extData id len p cr) ∨ (∃ id len cr, i = .extRemote id len cr) ∨
      (∃ x cr, i = .baudFrame x cr) ∨ (∃ cr, i = .openFrame cr)) :
    exec i s = .next (s.receive (encode i)) := by
  rcases h with ⟨_, _, _, _, rfl⟩ | ⟨_, _, _, rfl⟩ | ⟨_, _, _, _, rfl⟩ | ⟨_, _, _, rfl⟩ | ⟨_, _, rfl⟩ | ⟨_, rfl⟩ <;> rfl

/-! ### One lemma for all instructions: every way an instruction can complete -/

/-- Every next state `exec` answers is one of these. -/
inductive Completes : Instr → State → State → Prop where
  | arrives (i : Instr) (s : State) : isWireFrame i = true → Completes i s (s.receive (encode i))
  | acqbmBusy (s : State) : s.bmAcq = true → Completes .acqbm s (s.raise .busy)
  | acqtrBusy (req : Word) (s : State) : s.trAcq = true → Completes (.acqtr req) s (s.raise .busy)
  | setbaudOpen (hz : Word) (s : State) : s.bmAcq = true → s.busOpen = true →
      Completes (.setbaud hz) s (s.raise .notPermitted)
  | setbaudRate (hz : Word) (s : State) : s.bmAcq = true → s.busOpen = false → baudCh hz = none →
      Completes (.setbaud hz) s (s.raise .notSupported)
  | sendClosed (m : Message) (s : State) : s.trAcq = true → s.busOpen = false →
      Completes (.send m) s (s.raise .notSupported)
  | acqbm (s : State) : s.bmAcq = false → Completes .acqbm s (s.takeBusManager.finish none)
  | acqtr (req : Word) (s : State) : s.trAcq = false → s.tooLarge req = false →
      Completes (.acqtr req) s ((s.createTransceiver (ringCapacity req)).finish none)
  | setbaud (hz : Word) (x : Byte) (s : State) : s.bmAcq = true → s.busOpen = false → baudCh hz = some x →
      Completes (.setbaud hz) s (((s.tx (encode (.baudFrame x crByte))).setBaud hz).finish none)
  | setfilt (mode : Token) (s : State) : s.bmAcq = true → Completes (.setfilt mode) s (s.finish none)
  | regboff (cb : Token) (s : State) : s.bmAcq = true → Completes (.regboff cb) s ((s.setBoff cb).finish none)
  | busonAgain (s : State) : s.bmAcq = true → s.busOpen = true → Completes .buson s (s.finish none)
  | buson (s : State) : s.bmAcq = true → s.busOpen = false →
      Completes .buson s (((s.tx (encode (.openFrame crByte))).openBus).finish none)
  | baud (s : State) : s.trAcq = true → Completes .baud s (s.finish (some (.rate s.baud)))
  | send (m : Message) (s : State) : s.trAcq = true → s.busOpen = true → validMessage m = true →
      Completes (.send m) s ((s.tx (enc m)).finish none)
  | rxbuf (s : State) : s.trAcq = true → Completes .rxbuf s (s.pass.finish (some (.extent s.ringCap)))
  | rxcur (s : State) : s.trAcq = true → Completes .rxcur s (s.pass.finish (some (.cursor s.pass.widx)))
  | rdslot (i : Word) (s : State) : s.trAcq = true → s.inView i = true →
      Completes (.rdslot i) s (s.finish (some (.message (s.slotRead i.toNat))))

theorem completes_of_exec {i : Instr} {s t : State} (h : exec i s = .next t) : Completes i s t := by
  cases i with
  | stdData | stdRemote | extData | extRemote | baudFrame | openFrame =>
    rw [exec_wire s (by simp)] at h
    cases h
    exact .arrives _ _ rfl
  | acqbm =>
    rcases exec_acqbm_next h with ⟨hb, rfl⟩ | ⟨hb, rfl⟩
    · exact .acqbmBusy _ hb
    · exact .acqbm _ hb
  | acqtr req =>
    rcases exec_acqtr_next h with ⟨hb, rfl⟩ | ⟨h1, h2, rfl⟩
    · exact .acqtrBusy _ _ hb
    · exact .acqtr _ _ h1 h2
  | setbaud hz =>
    obtain ⟨hf, ⟨h1, rfl⟩ | ⟨h1, h2, rfl⟩ | ⟨x, h1, h2, rfl⟩⟩ := exec_setbaud_next h
    · exact .setbaudOpen _ _ hf h1
    · exact .setbaudRate _ _ hf h1 h2
    · exact .setbaud _ _ _ hf h1 h2
  | setfilt mode =>
    obtain ⟨hf, rfl⟩ := exec_setfilt_next h
    exact .setfilt _ _ hf
  | regboff cb =>
    obtain ⟨hf, rfl⟩ := exec_regboff_next h
    exact .regboff _ _ hf
  | buson =>
    obtain ⟨hf, ⟨h1, rfl⟩ | ⟨h1, rfl⟩⟩ := exec_buson_next h
    · exact .busonAgain _ hf h1
    · exact .buson _ hf h1
  | baud =>
    obtain ⟨hf, rfl⟩ := exec_baud_next h
    exact .baud _ hf
  | send m =>
    obtain ⟨hf, ⟨h1, h2, rfl⟩ | ⟨h1, rfl⟩⟩ := exec_send_next h
    · exact .send _ _ hf h1 h2
    · exact .sendClosed _ _ hf h1
  | rxbuf =>
    obtain ⟨hf, rfl⟩ := exec_rxbuf_next h
    exact .rxbuf _ hf
  | rxcur =>
    obtain ⟨hf, rfl⟩ := exec_rxcur_next h
    exact .rxcur _ hf
  | rdslot i =>
    obtain ⟨hf, h1, rfl⟩ := exec_rdslot_next h
    exact .rdslot _ _ hf h1

/-! ### The step -/

/-- Every next state a step answers is one of these. -/
theorem step_cases {s t : State} (h : step s = .next t) :
    (s.inputs = [] ∧ t = s) ∨
    (∃ bytes rest i, s.inputs = .op bytes :: rest ∧ decodeHost bytes = .ok i ∧
      exec i { s with inputs := rest } = .next t) ∨
    (∃ bytes rest i, s.inputs = .rx bytes :: rest ∧ decodeWire bytes = .ok i ∧
      exec i { s with inputs := rest } = .next t) ∨
    (∃ bytes rest e, s.inputs = .rx bytes :: rest ∧ decodeWire bytes = .error e ∧
      t = State.receive { s with inputs := rest } bytes) := by
  simp only [step, fetch] at h
  cases hi : s.inputs with
  | nil =>
    rw [hi] at h
    simp_all
  | cons e rest =>
    rw [hi] at h
    cases e with
    | op bytes =>
      cases hd : decodeHost bytes with
      | ok i =>
        simp only [fetchEvent, hd] at h
        exact .inr (.inl ⟨bytes, rest, i, rfl, hd, h⟩)
      | error r =>
        simp only [fetchEvent, hd] at h
        cases h
    | rx bytes =>
      cases hd : decodeWire bytes with
      | ok i =>
        simp only [fetchEvent, hd] at h
        exact .inr (.inr (.inl ⟨bytes, rest, i, rfl, hd, h⟩))
      | error r =>
        simp only [fetchEvent, hd] at h
        cases h
        exact .inr (.inr (.inr ⟨bytes, rest, r, rfl, hd, rfl⟩))
    | overlap a b =>
      simp only [fetchEvent] at h
      cases h

end Sys2Proof.Machine
end

