-- ==== Sys2Proof/Laws/PerInstr.lean ====
section
/-! SUPPORT. Statements made of every instruction, one lemma per constructor (LAWS.json). -/

namespace Sys2Proof.Laws

/-- How many bytes an instruction has: a wire frame as R102 and R114 say (with L the length its digit announces), a host
operation its select code and its operand's bytes (entry 14). -/
def EncodeLength.bytes : Instr → Nat
  | .stdData _ len _ _ => 6 + 2 * (len.toNat - 0x30)
  | .stdRemote _ _ _ => 6
  | .extData _ len _ _ => 11 + 2 * (len.toNat - 0x30)
  | .extRemote _ _ _ => 11
  | .baudFrame _ _ => 3
  | .openFrame _ => 2
  | .acqbm => 1
  | .acqtr _ => 5
  | .setbaud _ => 5
  | .setfilt mode => 1 + mode.length
  | .regboff cb => 1 + cb.length
  | .buson => 1
  | .baud => 1
  | .send _ => 16
  | .rxbuf => 1
  | .rxcur => 1
  | .rdslot _ => 5

/-- A well-formed instruction has as many bytes as the tables of R102 and R119 give it. -/
def EncodeLength.Statement (i : Instr) : Prop := i.wellFormed = true → (encode i).length = EncodeLength.bytes i

theorem EncodeLength.stdData (id : List Byte) (len : Byte) (payload : List Byte) (cr : Byte) :
    EncodeLength.Statement (.stdData id len payload cr) := by
  intro h
  simp only [Instr.wellFormed, isIdField, isPayloadField, Bool.and_eq_true, beq_iff_eq] at h
  simp only [encode, bytes, List.length_append, List.length_cons, List.length_nil]
  omega

theorem EncodeLength.stdRemote (id : List Byte) (len cr : Byte) : EncodeLength.Statement (.stdRemote id len cr) := by
  intro h
  simp only [Instr.wellFormed, isIdField, Bool.and_eq_true, beq_iff_eq] at h
  simp only [encode, bytes, List.length_append, List.length_cons, List.length_nil]
  omega

theorem EncodeLength.extData (id : List Byte) (len : Byte) (payload : List Byte) (cr : Byte) :
    EncodeLength.Statement (.extData id len payload cr) := by
  intro h
  simp only [Instr.wellFormed, isIdField, isPayloadField, Bool.and_eq_true, beq_iff_eq] at h
  simp only [encode, bytes, List.length_append, List.length_cons, List.length_nil]
  omega

theorem EncodeLength.extRemote (id : List Byte) (len cr : Byte) : EncodeLength.Statement (.extRemote id len cr) := by
  intro h
  simp only [Instr.wellFormed, isIdField, Bool.and_eq_true, beq_iff_eq] at h
  simp only [encode, bytes, List.length_append, List.length_cons, List.length_nil]
  omega

theorem EncodeLength.baudFrame (x cr : Byte) : EncodeLength.Statement (.baudFrame x cr) := fun _ => rfl
theorem EncodeLength.openFrame (cr : Byte) : EncodeLength.Statement (.openFrame cr) := fun _ => rfl
theorem EncodeLength.acqbm : EncodeLength.Statement .acqbm := fun _ => rfl
theorem EncodeLength.acqtr (req : Word) : EncodeLength.Statement (.acqtr req) := fun _ => rfl
theorem EncodeLength.setbaud (hz : Word) : EncodeLength.Statement (.setbaud hz) := fun _ => rfl
theorem EncodeLength.setfilt (mode : Token) : EncodeLength.Statement (.setfilt mode) := fun _ => by
  simp [encode, bytes, Nat.add_comm]
theorem EncodeLength.regboff (cb : Token) : EncodeLength.Statement (.regboff cb) := fun _ => by
  simp [encode, bytes, Nat.add_comm]
theorem EncodeLength.buson : EncodeLength.Statement .buson := fun _ => rfl
theorem EncodeLength.baud : EncodeLength.Statement .baud := fun _ => rfl
theorem EncodeLength.send (m : Message) : EncodeLength.Statement (.send m) := fun _ => by
  simp [encode, messageBytes, wordBytes, bytes]
theorem EncodeLength.rxbuf : EncodeLength.Statement .rxbuf := fun _ => rfl
theorem EncodeLength.rxcur : EncodeLength.Statement .rxcur := fun _ => rfl
theorem EncodeLength.rdslot (i : Word) : EncodeLength.Statement (.rdslot i) := fun _ => rfl

end Sys2Proof.Laws
end

