-- ==== Sys2Proof/Tests/Slice0.lean ====
section
/-! SUPPORT. The package's own tests: ill-formed instructions, words written out from the spec's encodings, one step per
instruction with the result the spec's vectors (95_test_vectors.md) give, and a witness for the hypotheses of every
statement that has any. -/

namespace Sys2Proof.Tests

open Sys2Proof.Machine

/-! ### Small states -/

/-- A concrete instance: `M` bytes of transport ring, A = 32, at most 8 slots. -/
def cfgOf (m : Nat) : Params where
  trxCap := m
  asmCap := 32
  ringCapMax := 8
  rxCursorInit := .zero
  ringInit := .any
  rxPad := .any

/-- Reset, on a concrete instance. -/
def fresh (m : Nat) : State := { State.reset with cfg := cfgOf m }

/-- Both facets held, the bus closed, a ring of `n` slots. -/
def ready (m n : Nat) : State := { fresh m with bmAcq := true, trAcq := true, ringCap := n }

/-- The same, the bus open. -/
def live (m n : Nat) : State := { ready m n with busOpen := true }

/-- The next state, where there is one. -/
def nextOf : Host.Outcome State Fault Refusal → Option State
  | .next s => some s
  | .fault _ => none
  | .refused _ => none

/-- What was refused, where something was. -/
def refusalIn : Host.Outcome State Fault Refusal → Option Refusal
  | .next _ => none
  | .fault _ => none
  | .refused r => some r

/-- What the next state's reply and transmit stream are. -/
def answer (o : Host.Outcome State Fault Refusal) : Option (Option Reply × List Byte) :=
  (nextOf o).map (fun s => (s.reply, s.txlog))

/-- The fields of a message the spec fixes: id, the two flags, length, and the payload below it. -/
structure Fields where
  id : Nat
  extended : Bool
  remoteRequest : Bool
  length : Nat
  data : List Byte
  deriving DecidableEq, Repr

/-- Those of a message. -/
def fieldsOf (m : Message) : Fields :=
  ⟨m.id.toNat, m.extended, m.remoteRequest, m.length, if m.remoteRequest then [] else m.payload.toList.take m.length⟩

/-- `DEC`, with the don't-care bytes zero, read through the fields the spec fixes. -/
def decFields (s : List Byte) : Option Fields := (dec (fun _ => 0) s).map fieldsOf

/-- The fields of the message in a written slot. -/
def slotFields (s : State) (i : Nat) : Option Fields := (s.slots.read i).map fieldsOf

/-- A message from its fields. -/
def msg (id : Word) (ext rtr : Bool) (len : Nat) (data : List Byte) : Message where
  id := id
  extended := ext
  remoteRequest := rtr
  length := len
  payload := payloadOf (fun k => data.getD k 0)

/-! ### Ill-formed instructions -/

theorem test_wf_std_data : (Instr.stdData [0x30, 0x30, 0x31] 0x31 [0x41, 0x42] 0x0D).wellFormed = true := by decide
theorem test_ill_id_length : (Instr.stdData [0x30, 0x31] 0x30 [] 0x0D).wellFormed = false := by decide
theorem test_ill_id_digit : (Instr.stdRemote [0x30, 0x30, 0x67] 0x30 0x0D).wellFormed = false := by decide
theorem test_ill_ext_id_length : (Instr.extData [0x30, 0x30, 0x31] 0x30 [] 0x0D).wellFormed = false := by decide
theorem test_ill_length_digit : (Instr.stdData [0x30, 0x30, 0x31] 0x39 (List.replicate 18 0x30) 0x0D).wellFormed = false := by
  decide
theorem test_ill_payload_length : (Instr.stdData [0x30, 0x30, 0x31] 0x32 [0x41, 0x42] 0x0D).wellFormed = false := by decide
theorem test_ill_payload_digit : (Instr.stdData [0x30, 0x30, 0x31] 0x31 [0x47, 0x30] 0x0D).wellFormed = false := by decide
theorem test_ill_terminator : (Instr.openFrame 0x58).wellFormed = false := by decide
theorem test_ill_remote_terminator : (Instr.extRemote (List.replicate 8 0x30) 0x30 0x0A).wellFormed = false := by decide
theorem test_ill_baud_code : (Instr.baudFrame 0x39 0x0D).wellFormed = false := by decide
theorem test_ill_send_length : (Instr.send (msg 0 false false 256 [])).wellFormed = false := by decide

/-! ### Words: the frames from the spec's encodings (R103 to R108; the vectors EV and DV), the host operations with the
select codes of R119 in the model's own byte layout (entry 14) -/

theorem test_word_std_data : decode [0x74, 0x30, 0x30, 0x41, 0x32, 0x46, 0x46, 0x30, 0x30, 0x0D] =
    .ok (.stdData [0x30, 0x30, 0x41] 0x32 [0x46, 0x46, 0x30, 0x30] 0x0D) := by decide
theorem test_word_std_remote : decode [0x72, 0x34, 0x30, 0x30, 0x30, 0x0D] =
    .ok (.stdRemote [0x34, 0x30, 0x30] 0x30 0x0D) := by decide
theorem test_word_ext_data : decode [0x54, 0x30, 0x30, 0x30, 0x30, 0x30, 0x30, 0x30, 0x31, 0x30, 0x0D] =
    .ok (.extData [0x30, 0x30, 0x30, 0x30, 0x30, 0x30, 0x30, 0x31] 0x30 [] 0x0D) := by decide
theorem test_word_ext_remote : decode [0x52, 0x30, 0x30, 0x30, 0x30, 0x30, 0x30, 0x30, 0x30, 0x30, 0x0D] =
    .ok (.extRemote [0x30, 0x30, 0x30, 0x30, 0x30, 0x30, 0x30, 0x30] 0x30 0x0D) := by decide
theorem test_word_baud_frame : decode [0x53, 0x36, 0x0D] = .ok (.baudFrame 0x36 0x0D) := by decide
theorem test_word_open_frame : decode [0x4F, 0x0D] = .ok (.openFrame 0x0D) := by decide
theorem test_word_acqbm : decode [0x00] = .ok .acqbm := by decide
theorem test_word_acqtr : decode [0x01, 0x00, 0x00, 0x00, 0x04] = .ok (.acqtr 4) := by decide
theorem test_word_setbaud : decode [0x02, 0x00, 0x01, 0xE8, 0x48] = .ok (.setbaud 125000) := by decide
theorem test_word_setfilt : decode [0x03, 0xAA, 0xBB] = .ok (.setfilt [0xAA, 0xBB]) := by decide
theorem test_word_regboff : decode [0x04] = .ok (.regboff []) := by decide
theorem test_word_buson : decode [0x05] = .ok .buson := by decide
theorem test_word_baud : decode [0x06] = .ok .baud := by decide
theorem test_word_send : decode [0x07, 0x1F, 0xFF, 0xFF, 0xFF, 0x01, 0x00, 0x08, 0, 1, 2, 3, 4, 5, 6, 7] =
    .ok (.send (msg 0x1FFFFFFF true false 8 [0, 1, 2, 3, 4, 5, 6, 7])) := by decide
theorem test_word_rxbuf : decode [0x08] = .ok .rxbuf := by decide
theorem test_word_rxcur : decode [0x09] = .ok .rxcur := by decide
theorem test_word_rdslot : decode [0x0A, 0x00, 0x00, 0x00, 0x02] = .ok (.rdslot 2) := by decide
theorem test_word_reserved : decode [0x0B] = .error (.reservedSelect 0xB) ∧ decode [0x0F] = .error (.reservedSelect 0xF) := by
  decide
theorem test_word_not_select : decode [0x10] = .error (.notSelectCode 0x10) := by decide
theorem test_word_bad_operand : decode [0x01, 0x04] = .error (.badOperand 0x1) ∧ decode [0x05, 0x00] = .error (.badOperand 0x5) := by
  decide
theorem test_word_bad_frame : decode [0x72, 0x31, 0x32, 0x33, 0x31, 0x41, 0x42, 0x0D] = .error (.badFrame 0x72) := by decide
theorem test_table_word : decodeTableWord 8 0x74 = some (.stdData [0, 0, 0] 0 [] 0) ∧ decodeTableWord 8 0x01 = some (.acqtr 0) := by
  decide

/-! ### The codec (vectors HV, EV, DV, BV) -/

theorem test_hexval : hexVal 0x2F = none ∧ hexVal 0x30 = some 0 ∧ hexVal 0x39 = some 9 ∧ hexVal 0x3A = none ∧
    hexVal 0x40 = none ∧ hexVal 0x41 = some 10 ∧ hexVal 0x46 = some 15 ∧ hexVal 0x47 = none ∧ hexVal 0x60 = none ∧
    hexVal 0x61 = some 10 ∧ hexVal 0x66 = some 15 ∧ hexVal 0x67 = none ∧ hexVal 0xFF = none := by decide
theorem test_hexdig : hexDig 0 = 0x30 ∧ hexDig 9 = 0x39 ∧ hexDig 10 = 0x41 ∧ hexDig 15 = 0x46 := by decide
theorem test_parsehex : parseHex [0x30, 0x61, 0x42] = some 0x0AB ∧ parseHex (List.replicate 8 0x46) = some 0xFFFFFFFF ∧
    parseHex [0x31, 0x47] = none := by decide
/-- EV12: bytes beyond the length are not read. -/
theorem test_enc_std_data : enc (msg 0x001 false false 3 [0xAB, 0xCD, 0xEF, 0x11, 0x22]) =
    [0x74, 0x30, 0x30, 0x31, 0x33, 0x41, 0x42, 0x43, 0x44, 0x45, 0x46, 0x0D] := by decide
/-- EV13: a remote frame never emits payload. -/
theorem test_enc_std_remote : enc (msg 0x123 false true 4 [0x99, 0x99]) = [0x72, 0x31, 0x32, 0x33, 0x34, 0x0D] := by decide
/-- EV6. -/
theorem test_enc_ext_data : enc (msg 0x0ABCDEF1 true false 1 [0x0A]) =
    [0x54, 0x30, 0x41, 0x42, 0x43, 0x44, 0x45, 0x46, 0x31, 0x31, 0x30, 0x41, 0x0D] := by decide
/-- EV9. -/
theorem test_enc_ext_remote : enc (msg 0x12345678 true true 8 []) =
    [0x52, 0x31, 0x32, 0x33, 0x34, 0x35, 0x36, 0x37, 0x38, 0x38, 0x0D] := by decide
/-- DV3 and DV4: lower and mixed case. -/
theorem test_dec_lower_case :
    decFields [0x74, 0x30, 0x30, 0x31, 0x33, 0x61, 0x62, 0x63, 0x64, 0x65, 0x66, 0x0D] =
      some ⟨0x001, false, false, 3, [0xAB, 0xCD, 0xEF]⟩ ∧
    decFields [0x74, 0x30, 0x61, 0x42, 0x31, 0x66, 0x46, 0x0D] = some ⟨0x0AB, false, false, 1, [0xFF]⟩ := by decide
/-- DV9 and DV11: no check of the ID's range, none of the last byte. -/
theorem test_dec_unchecked : decFields [0x74, 0x46, 0x46, 0x46, 0x30, 0x0D] = some ⟨0xFFF, false, false, 0, []⟩ ∧
    decFields [0x74, 0x30, 0x30, 0x31, 0x30, 0x58] = some ⟨0x001, false, false, 0, []⟩ := by decide
/-- DV13 and DV12: remote frames with a length. -/
theorem test_dec_remote :
    decFields [0x52, 0x31, 0x46, 0x46, 0x46, 0x46, 0x46, 0x46, 0x46, 0x38, 0x0D] = some ⟨0x1FFFFFFF, true, true, 8, []⟩ ∧
    decFields [0x72, 0x31, 0x32, 0x33, 0x34, 0x0D] = some ⟨0x123, false, true, 4, []⟩ := by decide
/-- DV14, DV31, DV32, DV36, DV38, DV41, DV43. -/
theorem test_dec_fails :
    decFields [0x72, 0x31, 0x32, 0x33, 0x31, 0x41, 0x42, 0x0D] = none ∧
    decFields [0x74, 0x30, 0x30, 0x31, 0x3A, 0x0D] = none ∧ decFields [0x74, 0x30, 0x30, 0x31, 0x2F, 0x0D] = none ∧
    decFields [0x74, 0x30, 0x30, 0x31, 0x32, 0x41, 0x42, 0x0D] = none ∧
    decFields [0x74, 0x30, 0x30, 0x31, 0x30, 0x30, 0x0D] = none ∧
    decFields [0x74, 0x30, 0x30, 0x31, 0x31, 0x30, 0x67, 0x0D] = none ∧
    decFields [0x54, 0x30, 0x30, 0x30, 0x30, 0x30, 0x30, 0x31, 0x0D] = none := by decide
theorem test_baudch : baudCh 10000 = some 0x30 ∧ baudCh 800000 = some 0x37 ∧ baudCh 1000000 = some 0x38 ∧
    baudCh 499999 = none ∧ baudCh 0 = none := by decide

/-! ### One step per instruction (vectors CV, RV, PV) -/

/-- A wire frame arrives byte by byte at `trx_cur` and wraps (PV2: indices 12 to 15, then 0). -/
theorem test_std_data_arrives :
    (nextOf (exec (.stdData [0x37, 0x46, 0x46] 0x30 [] 0x0D) { ready 16 4 with trxCur := 12 })).map
      (fun t => (t.trxCur, t.trx, t.fill)) =
    some (2, [(0, 0x30), (1, 0x0D), (12, 0x74), (13, 0x37), (14, 0x46), (15, 0x46)], 0) := by decide
theorem test_std_remote_arrives :
    (nextOf (exec (.stdRemote [0x31, 0x32, 0x33] 0x34 0x0D) (ready 16 4))).map (fun t => (t.trxCur, t.trx.read 0, t.trx.read 5)) =
    some (6, 0x72, 0x0D) := by decide
theorem test_ext_data_arrives :
    (nextOf (exec (.extData (List.replicate 8 0x30) 0x30 [] 0x0D) (ready 16 4))).map (fun t => (t.trxCur, t.trx.read 0, t.trx.read 10)) =
    some (11, 0x54, 0x0D) := by decide
theorem test_ext_remote_arrives :
    (nextOf (exec (.extRemote (List.replicate 8 0x30) 0x38 0x0D) (ready 16 4))).map (fun t => (t.trxCur, t.trx.read 0, t.trx.read 9)) =
    some (11, 0x52, 0x38) := by decide
theorem test_baud_frame_arrives :
    (nextOf (exec (.baudFrame 0x36 0x0D) (ready 16 4))).map (fun t => (t.trxCur, t.trx, t.baud, t.txlog)) =
    some (3, [(0, 0x53), (1, 0x36), (2, 0x0D)], 125000, []) := by decide
theorem test_open_frame_arrives :
    (nextOf (exec (.openFrame 0x0D) (ready 16 4))).map (fun t => (t.trxCur, t.trx, t.busOpen)) =
    some (2, [(0, 0x4F), (1, 0x0D)], false) := by decide
/-- CV1, CV2. -/
theorem test_acqbm : (nextOf (exec .acqbm (fresh 16))).map (fun t => (t.bmAcq, t.trAcq, t.reply)) =
      some (true, false, some ⟨.ok, none⟩) ∧
    answer (exec .acqbm (ready 16 4)) = some (some ⟨.busy, none⟩, []) := by decide
/-- CV11, CV12: a request of 0 is coerced to 1. -/
theorem test_acqtr : (nextOf (exec (.acqtr 0) (fresh 16))).map (fun t => (t.trAcq, t.ringCap, t.widx, t.fill)) =
      some (true, 1, 0, 0) ∧
    (nextOf (exec (.acqtr 8) (ready 16 1))).map (fun t => (t.ringCap, t.reply)) = some (1, some ⟨.busy, none⟩) := by decide
/-- PV17: the parser's first position, under each `RX_CURSOR_INIT`; a request above the maximum is refused. -/
theorem test_acqtr_cursor :
    (nextOf (exec (.acqtr 2) { fresh 32 with trxCur := 6 })).map (·.lastCur) = some 0 ∧
    (nextOf (exec (.acqtr 2) { fresh 32 with trxCur := 6, cfg := { cfgOf 32 with rxCursorInit := .snapshot } })).map (·.lastCur) =
      some 6 ∧
    refusalIn (exec (.acqtr 9) (fresh 32)) = some .ringTooLarge := by decide
/-- CV3, CV5. -/
theorem test_setbaud_closed :
    (nextOf (exec (.setbaud 500000) (ready 16 4))).map (fun t => (t.baud, t.txlog)) = some (500000, [0x53, 0x36, 0x0D]) ∧
    answer (exec (.setbaud 123456) (ready 16 4)) = some (some ⟨.notSupported, none⟩, []) := by decide
/-- CV9, CV10: the bus state is checked first. -/
theorem test_setbaud_open :
    answer (exec (.setbaud 250000) (live 16 4)) = some (some ⟨.notPermitted, none⟩, []) ∧
    answer (exec (.setbaud 123456) (live 16 4)) = some (some ⟨.notPermitted, none⟩, []) := by decide
/-- CV16. -/
theorem test_setfilt : exec (.setfilt [0x55]) (ready 16 4) = .next { ready 16 4 with reply := some ⟨.ok, none⟩ } := rfl
/-- CV17. -/
theorem test_regboff : (nextOf (exec (.regboff [2]) { ready 16 4 with boff := some [1] })).map (·.boff) = some (some [2]) := by
  decide
/-- CV7, CV8. -/
theorem test_buson : (nextOf (exec .buson (ready 16 4))).map (fun t => (t.busOpen, t.txlog)) = some (true, [0x4F, 0x0D]) ∧
    answer (exec .buson (live 16 4)) = some (some ⟨.ok, none⟩, []) := by decide
/-- CV18, CV19. -/
theorem test_baud : answer (exec .baud (ready 16 4)) = some (some ⟨.ok, some (.rate 125000)⟩, []) ∧
    answer (exec .baud { ready 16 4 with baud := 500000 }) = some (some ⟨.ok, some (.rate 500000)⟩, []) := by decide
/-- CV13, CV15. -/
theorem test_send : answer (exec (.send (msg 1 false false 0 [])) (ready 16 4)) = some (some ⟨.notSupported, none⟩, []) ∧
    answer (exec (.send (msg 1 false false 3 [0xAB, 0xCD, 0xEF])) (live 16 4)) =
      some (some ⟨.ok, none⟩, [0x74, 0x30, 0x30, 0x31, 0x33, 0x41, 0x42, 0x43, 0x44, 0x45, 0x46, 0x0D]) := by decide
/-- CV14. -/
theorem test_send_invalid : refusalIn (exec (.send (msg 0x800 false false 0 [])) (live 16 4)) = some .invalidMessage ∧
    refusalIn (exec (.send (msg 1 false false 9 [])) (live 16 4)) = some .invalidMessage := by decide
/-- PV4: RXBUF, with two frames and a partial one waiting. -/
theorem test_rxbuf :
    (nextOf (exec .rxbuf ((ready 32 4).receive [0x74, 0x30, 0x30, 0x31, 0x30, 0x0D, 0x72, 0x30, 0x30, 0x32, 0x30, 0x0D, 0x54,
        0x30, 0x30]))).map (fun t => (t.reply, t.fill, t.lastCur, slotFields t 0, slotFields t 1)) =
      some (some ⟨.ok, some (.extent 4)⟩, 3, 15, some ⟨1, false, false, 0, []⟩, some ⟨2, false, true, 0, []⟩) := by decide
/-- PV1: RXCUR on the end-to-end scenario. -/
theorem test_rxcur :
    (nextOf (exec .rxcur ((ready 16 4).receive [0x74, 0x30, 0x30, 0x31, 0x33, 0x41, 0x42, 0x43, 0x44, 0x45, 0x46, 0x0D]))).map
      (fun t => (t.reply, t.fill, t.lastCur, slotFields t 0)) =
    some (some ⟨.ok, some (.cursor 1)⟩, 0, 12, some ⟨1, false, false, 3, [0xAB, 0xCD, 0xEF]⟩) := by decide
/-- PV3 and PV13: leading garbage destroys a frame; an overrun by exactly M shows nothing. -/
theorem test_rxcur_loses :
    (nextOf (exec .rxcur ((ready 32 4).receive [0x07, 0x74, 0x30, 0x30, 0x31, 0x30, 0x0D]))).map
      (fun t => (t.reply, t.fill, t.lastCur)) = some (some ⟨.ok, some (.cursor 0)⟩, 0, 7) ∧
    (nextOf (exec .rxcur ((ready 8 2).receive [0x74, 0x30, 0x30, 0x31, 0x30, 0x0D, 0x74, 0x30]))).map
      (fun t => (t.reply, t.fill, t.lastCur)) = some (some ⟨.ok, some (.cursor 0)⟩, 0, 0) := by decide
/-- CV22, and a written slot. -/
theorem test_rdslot :
    answer (exec (.rdslot 1) { ready 16 4 with slots := [(1, msg 7 false true 2 [])] }) =
      some (some ⟨.ok, some (.message (msg 7 false true 2 []))⟩, []) ∧
    refusalIn (exec (.rdslot 4) (ready 16 4)) = some .slotOutsideView := by decide
/-- RV2: four pushes into three slots. -/
theorem test_push_wraps :
    (let t := [msg 1 false false 0 [], msg 2 false false 0 [], msg 3 false false 0 [], msg 4 false false 0 []].foldl
        State.push (ready 16 3);
     (t.widx, (slotFields t 0).map (·.id), (slotFields t 1).map (·.id), (slotFields t 2).map (·.id))) =
      (1, some 4, some 2, some 3) := by decide
/-- CV20, CV21. -/
theorem test_facet_needed : refusalIn (exec .buson (fresh 16)) = some (.facetNotHeld .busManager) ∧
    refusalIn (exec .rxcur (fresh 16)) = some (.facetNotHeld .transceiver) := by decide
/-- The step takes the oldest input; CV23: a reserved code is refused. -/
theorem test_step : (nextOf (step { fresh 16 with inputs := [.op [0x00], .op [0x00]] })).map (fun t => (t.bmAcq, t.inputs)) =
      some (true, [.op [0x00]]) ∧
    refusalIn (step { fresh 16 with inputs := [.op [0x0B]] }) = some (.reservedSelect 0xB) := by decide
/-- Received noise arrives; with no input nothing happens. -/
theorem test_step_noise : (nextOf (step { fresh 16 with inputs := [.rx [0x07]] })).map (fun t => (t.trxCur, t.trx)) =
      some (1, [(0, 0x07)]) ∧ step (fresh 16) = .next (fresh 16) := ⟨by decide, rfl⟩
/-- The table's word runs as the first instruction. -/
theorem test_fetch_word : (nextOf (step ((fresh 16).withFetchWord 8 0x00))).map (·.bmAcq) = some true ∧
    (nextOf (step ((fresh 16).withFetchWord 8 0x4F))).map (·.trxCur) = some 2 := by decide

/-! ### Witnesses: for each statement with hypotheses, a state and operands that meet them, at the ends of their ranges -/

theorem ready_inv : (ready 64 4).Inv := by constructor <;> first | decide | exact ⟨by decide, by decide, by decide⟩
theorem live_inv : (live 64 4).Inv := by constructor <;> first | decide | exact ⟨by decide, by decide, by decide⟩
theorem fresh_inv : (fresh 64).Inv := by constructor <;> first | decide | exact ⟨by decide, by decide, by decide⟩
/-- The least transport ring that takes the longest frame. -/
theorem ready28_inv : (ready 28 1).Inv := by constructor <;> first | decide | exact ⟨by decide, by decide, by decide⟩

theorem ready_caughtUp : (ready 64 4).CaughtUp := ⟨rfl, rfl, rfl⟩
theorem ready28_caughtUp : (ready 28 1).CaughtUp := ⟨rfl, rfl, rfl⟩

theorem witness_BusManagerAcquiredOnce :
    (fresh 64).bmAcq = false ∧ (ready 64 4).bmAcq = true ∧ ∃ t, exec .acqbm (ready 64 4) = .next t :=
  ⟨rfl, rfl, _, rfl⟩

/-- The request is the maximum, and one above it. -/
theorem witness_TransceiverAcquiredOnce :
    (ready 64 4).trAcq = true ∧ (fresh 64).trAcq = false ∧ (8 : Word).toNat ≤ (fresh 64).cfg.ringCapMax ∧
    (fresh 64).cfg.ringCapMax < (9 : Word).toNat := by decide

theorem witness_RingAndParserLiveFromAcquisition :
    (∃ t, (fresh 64).trAcq = false ∧ exec (.acqtr 0) (fresh 64) = .next t) ∧
    (fresh 64).cfg.ringCapMax < (9 : Word).toNat ∧
    (∃ t, (ready 64 4).trAcq = true ∧ exec .rxcur (ready 64 4) = .next t) ∧
    (∀ req, Instr.acqbm ≠ .acqtr req) :=
  ⟨⟨_, rfl, rfl⟩, by decide, ⟨_, rfl, rfl⟩, fun _ => by simp⟩

/-- The first and the last rate of the table; the values beside them are in none of its rows. -/
theorem witness_SetBaudEmitsAndRecordsRate :
    (live 64 4).bmAcq = true ∧ (live 64 4).busOpen = true ∧ (ready 64 4).bmAcq = true ∧ (ready 64 4).busOpen = false ∧
    ((10000 : Word), (0x30 : Byte)) ∈ baudTable ∧ ((1000000 : Word), (0x38 : Byte)) ∈ baudTable ∧
    (∀ x, ((9999 : Word), x) ∉ baudTable) ∧ (∀ x, ((1000001 : Word), x) ∉ baudTable) :=
  ⟨rfl, rfl, rfl, rfl, by decide, by decide, fun x => by simp [baudTable], fun x => by simp [baudTable]⟩

theorem witness_SetFilterIsNoOp : (fresh 64).takeBusManager.bmAcq = true ∧ (live 64 4).bmAcq = true := by decide

theorem witness_BusOffHandlerStoredNeverRead :
    (ready 64 4).bmAcq = true ∧ (∃ t, exec (.regboff [1]) (ready 64 4) = .next t) ∧ (∀ cb, Instr.baud ≠ .regboff cb) :=
  ⟨rfl, ⟨_, rfl⟩, fun _ => by simp⟩

theorem witness_BusOnOpensOnce :
    (live 64 4).bmAcq = true ∧ (live 64 4).busOpen = true ∧ (ready 64 4).bmAcq = true ∧ (ready 64 4).busOpen = false := by
  decide

theorem witness_BaudReadsSharedRate :
    (ready 64 4).trAcq = true ∧
    ∃ t, exec (.setbaud 500000) (ready 64 4) = .next t ∧ t.reply = some ⟨.ok, none⟩ :=
  ⟨rfl, _, rfl, rfl⟩

/-- Length 8 and the largest ids; one above each. -/
theorem witness_SendEmitsFrameWhenOpen :
    (ready 64 4).trAcq = true ∧ (ready 64 4).busOpen = false ∧ (live 64 4).trAcq = true ∧ (live 64 4).busOpen = true ∧
    ((msg 0x7FF false false 8 []).length ≤ 8 ∧ (msg 0x7FF false false 8 []).id.toNat ≤ 0x7FF) ∧
    ((msg 0x1FFFFFFF true true 8 []).length ≤ 8 ∧ (msg 0x1FFFFFFF true true 8 []).id.toNat ≤ 0x1FFFFFFF) ∧
    8 < (msg 0 false false 9 []).length ∧ 0x7FF < (msg 0x800 false false 0 []).id.toNat ∧
    0x1FFFFFFF < (msg 0x20000000 true false 0 []).id.toNat := by decide

/-- The last index of the view, the first outside it, and a written slot. -/
theorem witness_ReadSlotReadsTheView :
    (ready 64 4).trAcq = true ∧ (3 : Word).toNat < (ready 64 4).ringCap ∧ (ready 64 4).ringCap ≤ (4 : Word).toNat ∧
    ((ready 64 4).push (msg 7 false false 0 [])).slots.read (0 : Word).toNat = some (msg 7 false false 0 []) := by decide

theorem witness_RxbufReturnsExtent : (ready 64 4).trAcq = true ∧ (live 64 4).trAcq = true := by decide
theorem witness_RxcurReturnsCursorAfterPass : (ready 64 1).trAcq = true ∧ (live 64 4).trAcq = true := by decide
theorem witness_FacetOperationsNeedTheirFacet : (fresh 64).bmAcq = false ∧ (fresh 64).trAcq = false := by decide

/-- The cursor at the last index of the smallest ring. -/
theorem witness_WireFramesArrive :
    0 < (fresh 2).cfg.trxCap ∧ ({ fresh 2 with trxCur := 1 } : State).trxCur < (fresh 2).cfg.trxCap ∧ (fresh 2).trx.wf :=
  ⟨by decide, by decide, Memory.wf_nil⟩

theorem witness_StepRunsDecodedInstruction :
    decodeHost [0x05] = .ok .buson ∧ decodeWire [0x4F, 0x0D] = .ok (.openFrame 0x0D) ∧
    decode [0x4F, 0x0D] = .ok (.openFrame 0x0D) ∧
    ({ fresh 64 with inputs := [.op [0x05]] } : State).inputs = [eventOf [0x05]] := by decide

theorem witness_AnyReceivedBytesArrive :
    ({ fresh 2 with inputs := [.rx [0x07, 0x74, 0x0D]] } : State).inputs = .rx [0x07, 0x74, 0x0D] :: [] ∧
    0 < (fresh 2).cfg.trxCap ∧ (fresh 2).trxCur < (fresh 2).cfg.trxCap ∧ (fresh 2).trx.wf :=
  ⟨rfl, by decide, by decide, Memory.wf_nil⟩

/-- The first and the last reserved select code, and two overlapping operations. -/
theorem witness_MeaninglessRequestsAreRefused :
    0xB ≤ (0x0B : Byte).toNat ∧ (0x0B : Byte).toNat ≤ 0xF ∧ 0xB ≤ (0x0F : Byte).toNat ∧ (0x0F : Byte).toNat ≤ 0xF ∧
    ({ fresh 64 with inputs := [.op [0x0F]] } : State).inputs = .op (0x0F :: []) :: [] ∧
    ({ fresh 64 with inputs := [.overlap [0x00] [0x00]] } : State).inputs = .overlap [0x00] [0x00] :: [] := by decide

/-- The longest frame, and the largest operands of a host operation. -/
theorem witness_DecodeOfEncodedInstruction :
    (Instr.extData (List.replicate 8 0x46) 0x38 (List.replicate 16 0x66) 0x0D).wellFormed = true ∧
    (Instr.setbaud 0xFFFFFFFF).wellFormed = true ∧ (Instr.send (msg 0xFFFFFFFF true true 255 [])).wellFormed = true := by
  decide

theorem witness_EncodeOfDecodedInstruction :
    decode [0x72, 0x67, 0x67, 0x67, 0x39, 0x00] = .ok (.stdRemote [0x67, 0x67, 0x67] 0x39 0x00) ∧
    decode [0x0A, 0xFF, 0xFF, 0xFF, 0xFF] = .ok (.rdslot 0xFFFFFFFF) := by decide

/-- The two branches meet at 9 and 10. -/
theorem witness_HexDigitsUpperCaseAndInvertible : (9 : Nat) < 10 ∧ (10 : Nat) ≤ 10 ∧ (15 : Nat) < 16 := by decide

theorem witness_ParseHexReadsWholeField :
    ([0x46, 0x66] : List Byte).map hexVal = [15, 15].map some ∧ none ∈ ([0x31, 0x47] : List Byte).map hexVal := by decide

theorem witness_DigitsMostSignificantFirst : (7 : Nat) < 8 ∧ hexVal 0x66 = some 15 ∧ hexVal 0x30 = some 0 := by decide

theorem witness_StandardFrameFormat :
    validMessage (msg 0x7FF false false 8 []) = true ∧ validMessage (msg 0 false true 0 []) = true ∧
    (msg 0x7FF false false 8 []).length ≤ 8 ∧ (msg 0x7FF false false 8 []).id.toNat ≤ 0x7FF ∧
    (msg 0x7FF false false 8 []).extended = false ∧ (msg 0x7FF false true 8 []).remoteRequest = true := by decide

theorem witness_ExtendedFrameFormat :
    (msg 0x1FFFFFFF true false 8 []).length ≤ 8 ∧ (msg 0x1FFFFFFF true false 8 []).id.toNat ≤ 0x1FFFFFFF ∧
    (msg 0x1FFFFFFF true false 8 []).extended = true ∧ (msg 0x1FFFFFFF true false 8 []).remoteRequest = false ∧
    (msg 0 true true 8 []).remoteRequest = true := by decide

theorem witness_EncodedLengthAndAlphabet :
    validMessage (msg 0x1FFFFFFF true false 8 []) = true ∧ validMessage (msg 0 false true 8 []) = true := by decide

theorem witness_DecodeOfEncodedMessage :
    validMessage (msg 0x1FFFFFFF true false 8 []) = true ∧ validMessage (msg 0x7FF false true 8 []) = true ∧
    validMessage (msg 0x1FFFFFFF true true 0 []) = true ∧ validMessage (msg 0 false false 0 []) = true := by decide

/-- DV5's and DV12's input. -/
theorem witness_EncodeOfDecodedMessage :
    ∃ m, dec (fun _ => 0) [0x72, 0x31, 0x32, 0x33, 0x34, 0x0D] = some m ∧ validMessage m = true ∧
      ([0x72, 0x31, 0x32, 0x33, 0x34, 0x0D] : List Byte).getLast? = some 0x0D ∧
      ∀ b ∈ ([0x72, 0x31, 0x32, 0x33, 0x34, 0x0D] : List Byte), ¬ (0x61 ≤ b.toNat ∧ b.toNat ≤ 0x66) :=
  ⟨_, rfl, by decide, by decide, by decide⟩

/-- DV4's input carries its message, lower-case digits and all; and `DEC` takes it. -/
theorem witness_DecodeExactlyTheFrames :
    Carries [0x74, 0x30, 0x61, 0x42, 0x31, 0x66, 0x46, 0x0D] (msg 0x0AB false false 1 [0xFF]) ∧
    ∃ m, dec (fun _ => 0) [0x74, 0x30, 0x61, 0x42, 0x31, 0x66, 0x46, 0x0D] = some m := by
  refine ⟨⟨[0x30, 0x61, 0x42], [0x66, 0x46], 0x31, 0x0D, [0, 10, 11], by decide, by decide, by decide, by decide, by decide,
    by decide, by decide, fun _ => ⟨by decide, ?_⟩⟩, _, rfl⟩
  intro k _ hk
  obtain rfl : k = 0 := by simpa [msg] using hk
  exact ⟨15, 15, by decide, by decide, rfl⟩

/-- One input for each cause, each at its first failing value. -/
theorem witness_MalformedFramesFail :
    frameKind 0x78 = none ∧ frameKind 0x74 = some (false, false) ∧ frameKind 0x52 = some (true, true) ∧
    ([0x74, 0x30, 0x30, 0x31, 0x30] : List Byte).length < 6 ∧
    (([0x74, 0x30, 0x30, 0x67, 0x30, 0x0D] : List Byte)[3]? = some 0x67 ∧ hexVal 0x67 = none) ∧
    (([0x74, 0x30, 0x30, 0x31, 0x39, 0x0D] : List Byte)[4]? = some 0x39 ∧ 0x38 < (0x39 : Byte).toNat) ∧
    ([0x74, 0x30, 0x30, 0x31, 0x30, 0x30, 0x0D] : List Byte).length ≠ 6 + 2 * ((0x30 : Byte) - 0x30).toNat ∧
    (([0x74, 0x30, 0x30, 0x31, 0x31, 0x30, 0x47, 0x0D] : List Byte)[6]? = some 0x47 ∧
      6 < 5 + 2 * ((0x31 : Byte) - 0x30).toNat ∧ hexVal 0x47 = none) := by decide

theorem witness_TransmitOnlyFramesAreNotDecoded : baudCh 10000 = some 0x30 ∧ baudCh 1000000 = some 0x38 := by decide

/-- Each operation that emits, and one that does not. -/
theorem witness_OnlyThreeOperationsEmit :
    (∃ t, exec (.setbaud 10000) (ready 64 4) = .next t ∧ t.reply = some ⟨.ok, none⟩) ∧
    (∃ t, exec .buson (ready 64 4) = .next t ∧ t.reply = some ⟨.ok, none⟩) ∧
    (∃ t, exec (.send (msg 0x1FFFFFFF true false 8 [])) (live 64 4) = .next t ∧ t.reply = some ⟨.ok, none⟩) ∧
    (∃ t, exec .buson (live 64 4) = .next t ∧ t.reply = some ⟨.ok, none⟩) :=
  ⟨⟨_, rfl, rfl⟩, ⟨_, rfl, rfl⟩, ⟨_, rfl, rfl⟩, ⟨_, rfl, rfl⟩⟩

theorem witness_EmittedBytesAreOneFrame :
    (∃ t, exec (.send (msg 0x7FF false true 8 [])) (live 64 4) = .next t) ∧
    (∃ t, exec (.openFrame 0x0D) (ready 64 4) = .next t) :=
  ⟨⟨_, rfl⟩, ⟨_, rfl⟩⟩

/-- The last slot, where the cursor wraps; a slot before it; a ring of one. -/
theorem witness_PushWritesOneSlot :
    ({ ready 64 4 with widx := 3 } : State).widx + 1 = (ready 64 4).ringCap ∧
    ({ ready 64 4 with widx := 2 } : State).widx + 1 < (ready 64 4).ringCap ∧ (ready 64 1).widx < (ready 64 1).ringCap ∧
    (0 : Nat) ≠ ({ ready 64 4 with widx := 3 } : State).widx := by decide

/-- Three slots, four pushes (RV2): the newest, the oldest still held, and a slot outside the ring. -/
theorem witness_OverwriteKeepsTheLastN :
    (ready 64 3).widx < (ready 64 3).ringCap ∧ 3 ≤ (ready 64 3).ringCap ∧ 3 ≤ ([1, 2, 3, 4] : List Nat).length ∧
    (∀ k, 1 ≤ k → k ≤ 3 → 7 ≠ recentSlot 1 k 3) := by
  refine ⟨by decide, by decide, by decide, fun k _ _ h => ?_⟩
  have := Nat.mod_lt (1 + 3 - k) (show 0 < 3 by decide)
  rw [recentSlot] at h
  omega

theorem witness_ConsumerReadsNewestMessages :
    (ready 64 1).widx < (ready 64 1).ringCap ∧ ({ ready 64 4 with widx := 3 } : State).widx < (ready 64 4).ringCap := by decide

theorem witness_OnlyRxbufAndRxcurRunThePass :
    (∃ t, exec .rxbuf (ready 64 4) = .next t) ∧ runsPass .rxbuf = true ∧ runsPass .rxcur = true ∧
    (∃ t, exec .baud (ready 64 4) = .next t) ∧ runsPass .baud = false ∧ (∀ req, Instr.baud ≠ .acqtr req) ∧
    ∃ t, step { ready 64 4 with inputs := [.rx [0x0D]] } = .next t :=
  ⟨⟨_, rfl⟩, by decide, by decide, ⟨_, rfl⟩, by decide, fun _ => by simp, ⟨_, rfl⟩⟩

/-- No new byte, and one push into the last slot, after which the cursor wraps. -/
theorem witness_PassWritesParserAndRingOnly :
    runsPass .rxcur = true ∧ (∃ t, exec .rxcur (ready 64 4) = .next t) ∧ (0x0D : Byte) ∉ (ready 64 4).newBytes ∧
    (let s := State.receive { ready 64 4 with widx := 3 } [0x74, 0x30, 0x30, 0x31, 0x30, 0x0D];
     s.widx < s.ringCap ∧ (nextOf (exec .rxcur s)).map (fun t => (t.widx, t.draws - s.draws)) = some (0, 1)) :=
  ⟨by decide, ⟨_, rfl⟩, by decide, by decide⟩

/-- No progress, the longest progress (M - 1), and the source's wrap example with the least M. -/
theorem witness_NewByteCountIsModular :
    (0 : Nat) < 2 ∧ newByteCount 0 0 2 = 0 ∧ newByteCount 0 1 2 = 1 ∧ (4 : Nat) ≤ 4 ∧ newByteCount 1 2 4 = 3 := by decide

/-- Three bytes waiting across the end of the ring (PV6). -/
theorem witness_PassTakesNewBytesInOrder :
    (let s : State := { ready 8 2 with lastCur := 6, trxCur := 1, trx := [(0, 0x30), (6, 0x0D), (7, 0x74)] };
     s.lastCur < s.cfg.trxCap ∧ s.trxCur < s.cfg.trxCap ∧
     ([0x0D, 0x74, 0x30] : List Byte).length = (s.trxCur + s.cfg.trxCap - s.lastCur) % s.cfg.trxCap ∧
     ∀ i : Fin 3, ([0x0D, 0x74, 0x30] : List Byte)[i]? = some (s.trxRead ((s.lastCur + i) % s.cfg.trxCap))) := by decide

/-- The last byte that fits (`fill` = A - 2) and the first that does not (`fill` = A - 1). -/
theorem witness_AppendUnlessFull :
    (ready 64 4).asm.wf ∧ ({ ready 64 4 with fill := 30 } : State).fill < (ready 64 4).cfg.asmCap - 1 ∧
    ({ ready 64 4 with fill := 31 } : State).fill = (ready 64 4).cfg.asmCap - 1 := ⟨Memory.wf_nil, by decide, by decide⟩

/-- A CR that completes a frame, and one that ends garbage (PV1, PV7). -/
theorem witness_TerminatorEndsSegment :
    (∃ s : State, s.asm.wf ∧ s.fill < s.cfg.asmCap - 1 ∧ s.segment ++ [0x0D] = [0x74, 0x30, 0x30, 0x31, 0x30, 0x0D] ∧
      (dec (s.store 0x0D).pad (s.segment ++ [0x0D])).isSome = true) ∧
    (ready 64 4).asm.wf ∧ dec ((ready 64 4).store 0x0D).pad ((ready 64 4).segment ++ [0x0D]) = none ∧ (0x0C : Byte) ≠ 0x0D :=
  ⟨⟨{ ready 64 4 with asm := [(0, 0x74), (1, 0x30), (2, 0x30), (3, 0x31), (4, 0x30)], fill := 5 }, by decide, by decide,
    by decide, by decide⟩, Memory.wf_nil, by decide, by decide⟩

/-- The three modes, at their ends. -/
theorem witness_ParserStateMachine :
    (ready 64 4).asm.wf ∧ 3 ≤ (ready 64 4).cfg.asmCap ∧ (ready 64 4).parserMode = .idle ∧
    ({ ready 64 4 with fill := 1 } : State).parserMode = .accum ∧ ({ ready 64 4 with fill := 30 } : State).parserMode = .accum ∧
    ({ ready 64 4 with fill := 31 } : State).parserMode = .full ∧ 31 ≤ (ready 64 4).cfg.asmCap - 1 :=
  ⟨Memory.wf_nil, by decide, by decide, by decide, by decide, by decide, by decide⟩

theorem witness_IdempotentAndNotIdempotent :
    (ready 64 4).trxCur < (ready 64 4).cfg.trxCap ∧ (ready 64 4).lastCur = (ready 64 4).trxCur ∧
    (∃ t, exec .rxbuf (ready 64 4) = .next t) ∧ (∃ t, exec .rxcur (ready 64 4) = .next t) ∧
    (∃ t, exec .buson (ready 64 4) = .next t) ∧ (∃ t, exec (.setfilt []) (ready 64 4) = .next t) ∧
    (∃ t, exec .acqbm (fresh 64) = .next t ∧ t.reply = some ⟨.ok, none⟩) ∧
    (∃ t, exec (.acqtr 1) (fresh 64) = .next t ∧ t.reply = some ⟨.ok, none⟩) ∧
    (∃ t, exec (.setbaud 125000) (ready 64 4) = .next t ∧ t.reply = some ⟨.ok, none⟩) ∧
    (∃ t, exec (.send (msg 1 false false 0 [])) (live 64 4) = .next t ∧ t.reply = some ⟨.ok, none⟩) ∧
    (∃ t, exec (.regboff []) (ready 64 4) = .next t) :=
  ⟨by decide, rfl, ⟨_, rfl⟩, ⟨_, rfl⟩, ⟨_, rfl⟩, ⟨_, rfl⟩, ⟨_, rfl, rfl⟩, ⟨_, rfl, rfl⟩, ⟨_, rfl, rfl⟩, ⟨_, rfl, rfl⟩, ⟨_, rfl⟩⟩

/-- An empty chunk, and one of M - 1 bytes. -/
theorem witness_PassSplitInvariance :
    (ready 64 4).Inv ∧ (ready 64 4).lastCur = (ready 64 4).trxCur ∧
    ∀ c ∈ ([[], List.replicate 63 0x0D] : List (List Byte)), c.length < (ready 64 4).cfg.trxCap :=
  ⟨ready_inv, rfl, by simp [ready, fresh, cfgOf]⟩

/-- Exactly M bytes. -/
theorem witness_OverrunSeesCountModuloM :
    (ready 8 2).trxCur < (ready 8 2).cfg.trxCap ∧ (ready 8 2).lastCur = (ready 8 2).trxCur ∧
    (List.replicate 8 (0x41 : Byte)).length = (ready 8 2).cfg.trxCap := by decide

/-- A - 1 bytes before the CR: the fewest that are truncated. -/
theorem witness_TruncatedSegmentNeverDecodes :
    (ready 64 4).Inv ∧ (ready 64 4).fill = 0 ∧ (0x0D : Byte) ∉ List.replicate 31 (0x41 : Byte) ∧
    (ready 64 4).cfg.asmCap - 2 < (List.replicate 31 (0x41 : Byte)).length :=
  ⟨ready_inv, rfl, by decide, by decide⟩

/-- An adapter's reply, and the longest segment the ring takes. -/
theorem witness_ForeignSegmentsAreDropped :
    (ready 64 4).Inv ∧ (ready 64 4).CaughtUp ∧ frameKind 0x7A = none ∧ frameKind 0x53 = none ∧
    (0x0D : Byte) ∉ 0x7A :: List.replicate 61 (0x41 : Byte) ∧
    (List.replicate 61 (0x41 : Byte)).length + 2 < (ready 64 4).cfg.trxCap :=
  ⟨ready_inv, ready_caughtUp, by decide, by decide, by decide, by decide⟩

theorem witness_MalformedSegmentsDropSilently :
    dec ((ready 64 4).store 0x0D).pad ((ready 64 4).store 0x0D).segment = none ∧ (ready 64 4).trAcq = true := by decide

theorem witness_PassPushesAreBounded : (ready 64 4).Inv := ready_inv

/-- The longest frame and the smallest ring that takes it; each of the four kinds. -/
theorem witness_ReceivedFrameEntersTheRing :
    (ready 28 1).Inv ∧ (ready 28 1).CaughtUp ∧ validMessage (msg 0x1FFFFFFF true false 8 []) = true ∧
    (enc (msg 0x1FFFFFFF true false 8 [])).length < (ready 28 1).cfg.trxCap ∧
    (validMessage (msg 0 false false 8 []) = true ∧ (enc (msg 0 false false 8 [])).length < (ready 28 1).cfg.trxCap) ∧
    (validMessage (msg 0 false true 0 []) = true ∧ (enc (msg 0 false true 0 [])).length < (ready 28 1).cfg.trxCap) ∧
    (validMessage (msg 0 true true 0 []) = true ∧ (enc (msg 0 true true 0 [])).length < (ready 28 1).cfg.trxCap) :=
  ⟨ready28_inv, ready28_caughtUp, by decide, by decide, by decide, by decide, by decide⟩

/-- As many messages as the ring has slots. -/
theorem witness_LoopbackDeliversMessages :
    (let ms := [msg 0x7FF false false 8 [], msg 0x1ABCDEF0 true true 2 [], msg 0 true false 1 [0x5A], msg 1 false true 0 []];
     (∀ m ∈ ms, validMessage m = true) ∧ (live 64 1).trAcq = true ∧ (live 64 1).busOpen = true ∧ (ready 64 4).Inv ∧
     (ready 64 4).CaughtUp ∧ (ms.flatMap enc).length < (ready 64 4).cfg.trxCap ∧ ms.length ≤ (ready 64 4).ringCap) :=
  ⟨by decide, rfl, rfl, ready_inv, ready_caughtUp, by decide, by decide⟩

theorem witness_ResetStateAndIdleBlock :
    (fresh 64).inputs = [] ∧ ∃ t, step { fresh 64 with inputs := [.rx [0x74]] } = .next t := ⟨rfl, _, rfl⟩

theorem witness_EveryStepKeepsTheInvariant :
    (∃ t, (ready 64 4).Inv ∧ step (ready 64 4) = .next t) ∧ (∃ t, (live 64 4).Inv ∧ step (live 64 4) = .next t) :=
  ⟨⟨_, ready_inv, rfl⟩, ⟨_, live_inv, rfl⟩⟩

theorem witness_FlagsRiseOnceAndStay :
    (∃ t, step (live 64 4) = .next t ∧ (live 64 4).busOpen = true) ∧
    (∃ t, exec .buson (ready 64 4) = .next t ∧ (ready 64 4).busOpen = false ∧ t.busOpen = true) ∧
    (∃ t, exec .acqbm (fresh 64) = .next t ∧ (fresh 64).bmAcq = false ∧ t.bmAcq = true) ∧
    (∃ t, exec (.acqtr 8) (fresh 64) = .next t ∧ (fresh 64).trAcq = false ∧ t.trAcq = true) :=
  ⟨⟨_, rfl, rfl⟩, ⟨_, rfl, rfl, rfl⟩, ⟨_, rfl, rfl, rfl⟩, ⟨_, rfl, rfl, rfl⟩⟩

/-- Each error, and the case where both causes of SETBAUD meet. -/
theorem witness_ErrorStatusesAndTheirCauses :
    isWireFrame .acqbm = false ∧ (∃ t, exec .acqbm (ready 64 4) = .next t ∧ t.reply = some ⟨.busy, none⟩) ∧
    (∃ t, exec (.setbaud 0) (ready 64 4) = .next t ∧ t.reply = some ⟨.notSupported, none⟩) ∧
    (∃ t, exec (.send (msg 0 false false 9 [])) (ready 64 4) = .next t ∧ t.reply = some ⟨.notSupported, none⟩) ∧
    (∃ t, exec (.setbaud 0) (live 64 4) = .next t ∧ t.reply = some ⟨.notPermitted, none⟩) :=
  ⟨rfl, ⟨_, rfl, rfl⟩, ⟨_, rfl, rfl⟩, ⟨_, rfl, rfl⟩, ⟨_, rfl, rfl⟩⟩

/-- Two rings that agree on the one new byte and differ elsewhere. -/
theorem witness_TransportRingIsReadOnly :
    (let s : State := { ready 8 2 with trx := [(0, 0x41), (5, 0x42)], trxCur := 1 };
     newByteCount s.trxCur s.lastCur s.cfg.trxCap = 1 ∧
     Memory.read [(0, 0x41)] ((s.lastCur + 0) % s.cfg.trxCap) = s.trx.read ((s.lastCur + 0) % s.cfg.trxCap)) ∧
    isWireFrame (.rdslot 0) = false ∧ runsPass (.rdslot 0) = false ∧ ∃ t, exec .baud (ready 8 2) = .next t := by
  exact ⟨by decide, rfl, by decide, _, rfl⟩

end Sys2Proof.Tests
end

section
/-! SUPPORT. What a step does, told by its oldest input (entry 11), and the statements about it. -/

namespace Sys2Proof.Machine

variable {s : State} {e : Event} {bytes : List Byte} {rest : List Event} {i : Instr}

/-! ### Fetching an instruction -/

theorem fetchEvent_op_of_decodeHost (h : decodeHost bytes = .ok i) : fetchEvent (.op bytes) s = .instr i s := by
  simp only [fetchEvent, h]

theorem fetchEvent_rx_of_decodeWire (h : decodeWire bytes = .ok i) : fetchEvent (.rx bytes) s = .instr i s := by
  simp only [fetchEvent, h]

/-- `eventOf` chooses between PRODUCER and HOST by the same test as `decode` chooses its decoder. -/
theorem fetchEvent_eventOf_of_decode (h : decode bytes = .ok i) : fetchEvent (eventOf bytes) s = .instr i s := by
  unfold decode at h
  unfold eventOf
  split at h
  case isTrue hc =>
    rw [if_pos hc]
    exact fetchEvent_rx_of_decodeWire h
  case isFalse hc =>
    rw [if_neg hc]
    exact fetchEvent_op_of_decodeHost h

/-! ### The step for a given oldest input -/

theorem fetch_of_inputs_eq_cons (hin : s.inputs = e :: rest) : fetch s = fetchEvent e { s with inputs := rest } := by
  simp only [fetch, hin]

theorem step_of_fetchEvent_instr (hin : s.inputs = e :: rest)
    (hf : fetchEvent e { s with inputs := rest } = .instr i { s with inputs := rest }) :
    step s = exec i { s with inputs := rest } := by
  simp only [step, fetch_of_inputs_eq_cons hin, hf]

/-- Settles O15: each of the three entries is fetched as the instruction its bytes decode to. -/
theorem stepRunsDecodedInstruction : Obligations.StepRunsDecodedInstruction := by
  intro s bytes rest i
  refine ⟨fun hin hdec => ?host, fun hin hdec => ?wire, fun hin hdec => ?either⟩
  case host => exact step_of_fetchEvent_instr hin (fetchEvent_op_of_decodeHost hdec)
  case wire => exact step_of_fetchEvent_instr hin (fetchEvent_rx_of_decodeWire hdec)
  case either => exact step_of_fetchEvent_instr hin (fetchEvent_eventOf_of_decode hdec)

end Sys2Proof.Machine
end

section
/-! SUPPORT. The well-formedness of the state (10_state.md section 9): it holds at reset, every operation keeps it, and so
does every step; and the three flags, which rise once and stay. -/

namespace Sys2Proof.Machine

variable {s t : State} {i : Instr}

/-! ### Reset -/

theorem paramsOk_params : ParamsOk Config.params where
  trxCap := Nat.le_add_left _ _
  asmCap := by decide
  ringCapMax := Nat.le_add_left _ _

/-- Settles O56: the ring and the parser are empty, both cursors are 0, and 125 kHz is a rate of the table. -/
theorem invariantHoldsAtReset : Obligations.InvariantHoldsAtReset := by
  obtain ⟨htrx, hasm, hslots⟩ := State.reset_storage_wf
  exact
    { cfg := paramsOk_params
      ring := by simp [State.reset]
      fill := Nat.zero_le _
      lastCur := Nat.succ_pos _
      trxCur := Nat.succ_pos _
      rate := by decide
      opened := by simp [State.reset]
      pushed := by simp [State.reset]
      noCr := by simp [State.segment, State.reset]
      trxForm := htrx
      trxRange := by simp [State.reset]
      asmForm := hasm
      asmRange := by simp [State.reset]
      slotForm := hslots
      slotRange := by simp [State.reset] }

/-! ### What the codec gives the invariant -/

/-- A rate that has a code is one of the table's (R157). -/
theorem mem_baudTable_of_baudCh {hz : Word} {x : Byte} (h : baudCh hz = some x) : hz ∈ baudTable.map Prod.fst := by
  obtain ⟨l, r, hl, -⟩ := List.lookup_eq_some_iff.1 h
  simp [hl]

/-- `DEC` checks the length it reads (R147, R150), so every message it makes has at most eight bytes. -/
theorem dec_length_le {pad : Nat → Byte} {seg : List Byte} {m : Message} (h : dec pad seg = some m) : m.length ≤ 8 := by
  cases seg with
  | nil => cases h
  | cons c rest =>
    simp only [dec] at h
    split at h
    · cases h
    split at h
    · cases h
    split at h
    · cases h
    split at h
    · cases h
    next hlen =>
      split at h
      · cases h
      split at h
      · cases h
      cases h
      exact Nat.not_lt.1 hlen

/-! ### Control state and arriving bytes -/

/-- No field of the invariant speaks of what is still to come. -/
theorem State.Inv.withInputs (h : s.Inv) (rest : List Event) : State.Inv { s with inputs := rest } := { h with }

theorem State.Inv.finish (h : s.Inv) (v : Option Value) : (s.finish v).Inv := { h with }

theorem State.Inv.raise (h : s.Inv) (e : Status) : (s.raise e).Inv := { h with }

theorem State.Inv.tx (h : s.Inv) (bytes : List Byte) : (s.tx bytes).Inv := { h with }

theorem State.Inv.setBoff (h : s.Inv) (cb : Token) : (s.setBoff cb).Inv := { h with }

theorem State.Inv.setBaud (h : s.Inv) {hz : Word} (hr : hz ∈ baudTable.map Prod.fst) : (s.setBaud hz).Inv :=
  { h with rate := hr }

theorem State.Inv.takeBusManager (h : s.Inv) : s.takeBusManager.Inv := { h with opened := fun _ => rfl }

theorem State.Inv.openBus (h : s.Inv) (hb : s.bmAcq = true) : s.openBus.Inv := { h with opened := fun _ => hb }

theorem State.Inv.initialCursor_lt (h : s.Inv) : s.initialCursor < s.cfg.trxCap := by
  have hcap := h.cfg.trxCap
  unfold State.initialCursor
  split
  · omega
  · exact h.trxCur

theorem State.Inv.createTransceiver (h : s.Inv) {n : Nat} (hn : 1 ≤ n) : (s.createTransceiver n).Inv :=
  { h with
    ring := fun _ => ⟨hn, hn⟩
    fill := Nat.zero_le _
    lastCur := h.initialCursor_lt
    pushed := by simp
    noCr := by simp [State.segment]
    slotForm := List.Pairwise.nil
    slotRange := by simp }

theorem State.Inv.produce (h : s.Inv) (b : Byte) : (s.produce b).Inv :=
  { h with
    trxCur := Nat.mod_lt _ (Nat.zero_lt_of_lt h.trxCur)
    trxForm := Memory.write_wf h.trxForm _ _
    trxRange := Memory.write_range h.trxRange h.trxCur }

theorem State.Inv.receive (h : s.Inv) (bytes : List Byte) : (s.receive bytes).Inv := by
  induction bytes generalizing s with
  | nil => exact h
  | cons b bytes ih => exact ih (h.produce b)

/-! ### The parser: a byte, and a pass -/

theorem State.Inv.emptyAsm (h : s.Inv) : s.emptyAsm.Inv :=
  { h with
    fill := Nat.zero_le _
    noCr := by simp [State.segment] }

/-- A byte that is no CR joins a segment without CR (I8). -/
theorem State.Inv.append (h : s.Inv) (hroom : s.fill < s.cfg.asmCap - 1) {b : Byte} (hb : b ≠ crByte) :
    (s.append b).Inv :=
  { h with
    fill := hroom
    noCr := by simp [State.segment_append h.asmForm, h.noCr, hb.symm]
    asmForm := State.append_asm_wf h.asmForm b
    asmRange := Memory.write_range h.asmRange hroom }

/-- A CR stored in the buffer breaks I8 only until the segment's end empties it. -/
theorem State.Inv.emptyAsm_append (h : s.Inv) (hroom : s.fill < s.cfg.asmCap - 1) (b : Byte) :
    (s.append b).emptyAsm.Inv :=
  { h.emptyAsm with
    asmForm := State.append_asm_wf h.asmForm b
    asmRange := Memory.write_range h.asmRange hroom }

theorem State.Inv.store (h : s.Inv) {b : Byte} (hb : b ≠ crByte) : (s.store b).Inv := by
  by_cases hroom : s.fill < s.cfg.asmCap - 1
  · rw [State.store_of_room hroom]
    exact h.append hroom hb
  · rw [State.store_of_full hroom]
    exact h

theorem State.Inv.emptyAsm_store (h : s.Inv) (b : Byte) : (s.store b).emptyAsm.Inv := by
  by_cases hroom : s.fill < s.cfg.asmCap - 1
  · rw [State.store_of_room hroom]
    exact h.emptyAsm_append hroom b
  · rw [State.store_of_full hroom]
    exact h.emptyAsm

theorem State.Inv.drawn (h : s.Inv) : s.drawn.Inv := { h with }

theorem State.Inv.push (h : s.Inv) (ha : s.trAcq = true) {m : Message} (hm : m.length ≤ 8) : (s.push m).Inv := by
  obtain ⟨hcap, hidx⟩ := h.ring ha
  exact
    { h with
      ring := fun _ => ⟨hcap, Nat.mod_lt _ hcap⟩
      pushed := Slots.write_forall h.pushed hm
      slotForm := State.push_slots_wf h.slotForm m
      slotRange := Slots.write_forall h.slotRange hidx }

/-- The segment's end needs the invariant of the emptied buffer only: `PUSH` does not read the buffer. -/
theorem State.Inv.endSegment_of_emptyAsm (h : s.emptyAsm.Inv) (ha : s.trAcq = true) : s.endSegment.Inv := by
  cases hd : dec s.pad s.segment with
  | none =>
    rw [State.endSegment_of_none hd]
    exact h
  | some m =>
    rw [State.endSegment_of_some hd]
    exact (h.push ha (dec_length_le hd)).drawn

@[simp] theorem State.store_trAcq (s : State) (b : Byte) : (s.store b).trAcq = s.trAcq := by rw [s.store_frame b]
@[simp] theorem State.pbyte_trAcq (s : State) (b : Byte) : (s.pbyte b).trAcq = s.trAcq := by rw [s.pbyte_frame b]

theorem State.Inv.pbyte (h : s.Inv) (ha : s.trAcq = true) (b : Byte) : (s.pbyte b).Inv := by
  by_cases hb : b = crByte
  · rw [hb, State.pbyte_cr]
    exact (h.emptyAsm_store crByte).endSegment_of_emptyAsm (by simpa using ha)
  · rw [State.pbyte_of_ne s hb]
    exact h.store hb

theorem State.Inv.foldl_pbyte (h : s.Inv) (ha : s.trAcq = true) (bytes : List Byte) :
    (bytes.foldl State.pbyte s).Inv := by
  induction bytes generalizing s with
  | nil => exact h
  | cons b bytes ih => exact ih (h.pbyte ha b) (by simpa using ha)

theorem State.Inv.commitCursor (h : s.Inv) {cur : Nat} (hc : cur < s.cfg.trxCap) : (s.commitCursor cur).Inv :=
  { h with lastCur := hc }

theorem State.Inv.pass (h : s.Inv) (ha : s.trAcq = true) : s.pass.Inv := by
  by_cases hn : newByteCount s.trxCur s.lastCur s.cfg.trxCap = 0
  · rw [State.pass_of_no_bytes hn]
    exact h
  · rw [State.pass_of_bytes hn]
    exact (h.foldl_pbyte ha s.newBytes).commitCursor (by simpa using h.trxCur)

/-! ### Every instruction, and every step -/

theorem one_le_ringCapacity (req : Word) : 1 ≤ ringCapacity req := Nat.le_max_left _ _

/-- Every way an instruction completes keeps the invariant. -/
theorem State.Inv.of_completes (h : s.Inv) (hc : Completes i s t) : t.Inv := by
  cases hc with
  | arrives => exact h.receive _
  | acqbmBusy | acqtrBusy | setbaudOpen | setbaudRate | sendClosed => exact h.raise _
  | acqbm => exact h.takeBusManager.finish _
  | acqtr req => exact (h.createTransceiver (one_le_ringCapacity req)).finish _
  | setbaud hz x _ _ _ hx => exact ((h.tx _).setBaud (mem_baudTable_of_baudCh hx)).finish _
  | setfilt | busonAgain | baud | rdslot => exact h.finish _
  | regboff => exact (h.setBoff _).finish _
  | buson _ hb _ => exact ((h.tx _).openBus hb).finish _
  | send => exact (h.tx _).finish _
  | rxbuf _ ha | rxcur _ ha => exact (h.pass ha).finish _

/-- No instruction writes the parameters (R8). -/
theorem Completes.cfg_eq (hc : Completes i s t) : t.cfg = s.cfg := by
  cases hc <;> simp

/-- A step does nothing, or takes one input and then completes an instruction or lets bytes arrive. -/
theorem step_completes (h : step s = .next t) :
    t = s ∨ ∃ rest, (∃ i, Completes i { s with inputs := rest } t) ∨
      ∃ bytes, t = State.receive { s with inputs := rest } bytes := by
  obtain ⟨-, rfl⟩ | ⟨_, rest, i, -, -, hx⟩ | ⟨_, rest, i, -, -, hx⟩ | ⟨bytes, rest, _, -, -, rfl⟩ := step_cases h
  · exact .inl rfl
  · exact .inr ⟨rest, .inl ⟨i, completes_of_exec hx⟩⟩
  · exact .inr ⟨rest, .inl ⟨i, completes_of_exec hx⟩⟩
  · exact .inr ⟨rest, .inr ⟨bytes, rfl⟩⟩

/-- Settles O57: taking the input keeps the invariant, and so does what is done with it. -/
theorem everyStepKeepsTheInvariant : Obligations.EveryStepKeepsTheInvariant := by
  intro s t h hstep
  obtain rfl | ⟨rest, ⟨i, hc⟩ | ⟨bytes, rfl⟩⟩ := step_completes hstep
  · exact ⟨h, rfl⟩
  · exact ⟨(h.withInputs rest).of_completes hc, hc.cfg_eq⟩
  · exact ⟨(h.withInputs rest).receive bytes, State.receive_cfg _ bytes⟩

/-! ### The three flags -/

@[simp] theorem State.receive_busOpen (s : State) (bs : List Byte) : (s.receive bs).busOpen = s.busOpen := by
  rw [State.receive_frame]

/-- R230: BUSON alone writes `bus_open`, and writes 1. -/
theorem Completes.busOpen_eq_or_buson (hc : Completes i s t) :
    t.busOpen = s.busOpen ∨ i = .buson ∧ t.busOpen = true := by
  cases hc with
  | buson => exact .inr ⟨rfl, rfl⟩
  | _ => exact .inl (by simp)

/-- R231: ACQBM alone writes `bm_acq`, and writes 1. -/
theorem Completes.bmAcq_eq_or_acqbm (hc : Completes i s t) : t.bmAcq = s.bmAcq ∨ i = .acqbm ∧ t.bmAcq = true := by
  cases hc with
  | acqbm => exact .inr ⟨rfl, rfl⟩
  | _ => exact .inl (by simp)

/-- R232: ACQTR alone writes `tr_acq`, and writes 1. -/
theorem Completes.trAcq_eq_or_acqtr (hc : Completes i s t) :
    t.trAcq = s.trAcq ∨ (∃ req, i = .acqtr req) ∧ t.trAcq = true := by
  cases hc with
  | acqtr req => exact .inr ⟨⟨req, rfl⟩, rfl⟩
  | _ => exact .inl (by simp)

/-- No flag that is 1 in `s` is 0 in `t` (R31, R32). -/
def FlagsKept (s t : State) : Prop :=
  (s.busOpen = true → t.busOpen = true) ∧ (s.bmAcq = true → t.bmAcq = true) ∧ (s.trAcq = true → t.trAcq = true)

theorem Completes.flagsKept (hc : Completes i s t) : FlagsKept s t := by
  refine ⟨fun h => ?_, fun h => ?_, fun h => ?_⟩
  · exact hc.busOpen_eq_or_buson.elim (·.trans h) (·.2)
  · exact hc.bmAcq_eq_or_acqbm.elim (·.trans h) (·.2)
  · exact hc.trAcq_eq_or_acqtr.elim (·.trans h) (·.2)

theorem step_flagsKept (h : step s = .next t) : FlagsKept s t := by
  obtain rfl | ⟨rest, ⟨i, hc⟩ | ⟨bytes, rfl⟩⟩ := step_completes h
  · exact ⟨id, id, id⟩
  · exact hc.flagsKept
  · simp [FlagsKept]

/-- Settles O58: an instruction either leaves a flag as it is or is the one that raises it. -/
theorem flagsRiseOnceAndStay : Obligations.FlagsRiseOnceAndStay := by
  refine ⟨⟨rfl, rfl, rfl⟩, fun s t h => step_flagsKept h, fun i s t h => ?_⟩
  have hc := completes_of_exec h
  refine ⟨fun hs ht => ?_, fun hs ht => ?_, fun hs ht => ?_⟩
  · exact (hc.busOpen_eq_or_buson.resolve_left (by simp [hs, ht])).1
  · exact (hc.bmAcq_eq_or_acqbm.resolve_left (by simp [hs, ht])).1
  · exact (hc.trAcq_eq_or_acqtr.resolve_left (by simp [hs, ht])).1

end Sys2Proof.Machine
end

section
/-! SUPPORT. Arriving bytes (20_memory.md sections 1 and 5): where the transport's ring holds them, how many of them the next
pass sees, and the wire frames and the received bytes as what arrives. -/

namespace Sys2Proof.Machine

variable {s : State} {i : Instr} {bytes : List Byte}

/-! ### The ring's indices -/

/-- Fewer than `cap` steps apart, two indices of a ring of `cap` bytes are different. -/
theorem add_mod_ne_add_mod {base k l cap : Nat} (hkl : k < l) (hcap : l < k + cap) :
    (base + k) % cap ≠ (base + l) % cap := by
  intro h
  have hmod : (base + l - (base + k)) % cap = 0 := Nat.sub_mod_eq_zero_of_mod_eq h.symm
  rw [Nat.mod_eq_of_lt (by omega)] at hmod
  omega

/-- R203: the new bytes of a cursor that is `n` steps ahead number `n` modulo `M`. -/
theorem newByteCount_advance {last cap : Nat} (h : last < cap) (n : Nat) :
    newByteCount ((last + n) % cap) last cap = n % cap := by
  have hn : last + n + (cap - last) = n + cap := by omega
  rw [newByteCount, Nat.add_sub_assoc h.le, Nat.mod_add_mod, hn, Nat.add_mod_right]

/-- R203: two cursors of the ring have no byte between them only where they are equal. -/
theorem newByteCount_eq_zero_iff {cur last cap : Nat} (hc : cur < cap) (hl : last < cap) :
    newByteCount cur last cap = 0 ↔ last = cur := by
  unfold newByteCount
  constructor
  · intro h
    obtain hlt | hge := Nat.lt_or_ge cur last
    · rw [Nat.mod_eq_of_lt (by omega)] at h
      omega
    · rw [Nat.sub_add_comm hge, Nat.add_mod_right, Nat.mod_eq_of_lt (by omega)] at h
      omega
  · rintro rfl
    simp

/-! ### What the ring holds after bytes arrived -/

theorem State.receive_concat (s : State) (bs : List Byte) (b : Byte) :
    s.receive (bs ++ [b]) = (s.receive bs).produce b := s.receive_append bs [b]

/-- The byte that arrives last is written behind those before it. -/
theorem State.receive_concat_trx (hc : s.trxCur < s.cfg.trxCap) (bs : List Byte) (b : Byte) :
    (s.receive (bs ++ [b])).trx = (s.receive bs).trx.write ((s.trxCur + bs.length) % s.cfg.trxCap) b := by
  rw [State.receive_concat, State.produce_trx, State.receive_trxCur s bs hc]

theorem State.receive_trx_read_other (hc : s.trxCur < s.cfg.trxCap) (bs : List Byte) {a : Nat}
    (ha : ∀ k, k < bs.length → a ≠ (s.trxCur + k) % s.cfg.trxCap) : (s.receive bs).trx.read a = s.trx.read a := by
  induction bs using List.reverseRecOn with
  | nil => rfl
  | append_singleton bs b ih =>
    simp only [List.length_append, List.length_singleton] at ha
    rw [State.receive_concat_trx hc, Memory.read_write_other b (ha _ (Nat.lt_succ_self _))]
    exact ih fun k hk => ha k (Nat.lt_succ_of_lt hk)

/-- R79: of the bytes that land on one index the last one stays, so the last `M` are all there. -/
theorem State.receive_trx_read_new (hc : s.trxCur < s.cfg.trxCap) (hw : s.trx.wf) (bs : List Byte) (k : Nat)
    (hk : k < bs.length) (hlast : bs.length ≤ k + s.cfg.trxCap) :
    (s.receive bs).trx.read ((s.trxCur + k) % s.cfg.trxCap) = bs[k] := by
  induction bs using List.reverseRecOn with
  | nil => cases hk
  | append_singleton bs b ih =>
    simp only [List.length_append, List.length_singleton] at hk hlast
    rw [State.receive_concat_trx hc]
    obtain hlt | rfl := Nat.lt_succ_iff_lt_or_eq.1 hk
    · rw [Memory.read_write_other b (add_mod_ne_add_mod hlt (by omega)), ih hlt (by omega), List.getElem_append_left hlt]
    · rw [Memory.read_write_same b (State.receive_trx_wf hw bs), List.getElem_concat_length rfl]

theorem State.arrived_receive (hc : s.trxCur < s.cfg.trxCap) (hw : s.trx.wf) (bs : List Byte) :
    Arrived s bs (s.receive bs) :=
  ⟨s.receive_frame bs, s.receive_trxCur bs hc, s.receive_trx_read_new hc hw bs, fun _ => s.receive_trx_read_other hc bs⟩

/-! ### Wire frames -/

theorem exec_of_isWireFrame (hi : isWireFrame i = true) (s : State) : exec i s = .next (s.receive (encode i)) := by
  cases i with
  | stdData | stdRemote | extData | extRemote | baudFrame | openFrame => exact exec_wire s (by simp)
  | _ => cases hi

/-- A wire frame completes by the arrival of its bytes (entry 13). -/
theorem exec_arrived_of_encode_eq (hc : s.trxCur < s.cfg.trxCap) (hw : s.trx.wf) (hi : isWireFrame i = true)
    (hb : encode i = bytes) : ∃ t, exec i s = .next t ∧ Arrived s bytes t :=
  ⟨_, exec_of_isWireFrame hi s, hb ▸ s.arrived_receive hc hw (encode i)⟩

/-- Settles O14: each frame's bytes arrive, which `State.arrived_receive` describes. -/
theorem wireFramesArrive : Obligations.WireFramesArrive := by
  intro s _ hc hw
  refine ⟨fun id len payload cr => ?_, fun id len cr => ?_, fun id len payload cr => ?_, fun id len cr => ?_,
    fun x cr => ?_, fun cr => ?_⟩ <;>
  exact exec_arrived_of_encode_eq hc hw rfl (by simp [encode])

/-! ### Received bytes -/

/-- A list is its first `w` elements, the next one, those after it but the last, and the last. -/
theorem take_append_getD_cons_dropLast_concat {rest : List Byte} {w : Nat} (h : w + 2 ≤ rest.length) :
    rest.take w ++ rest.getD w 0 :: ((rest.drop (w + 1)).dropLast ++ [rest.getLastD 0]) = rest := by
  have hne : rest.drop (w + 1) ≠ [] := by simp; omega
  have hlast : rest.getLastD 0 = (rest.drop (w + 1)).getLast hne := by
    rw [List.getLast_drop, List.getLastD_eq_getLast?, List.getLast?_eq_getLast_of_ne_nil]
    rfl
  rw [hlast, List.dropLast_append_getLast, List.getD_eq_getElem _ _ (by omega), List.cons_getElem_drop_succ,
    List.take_append_drop]

theorem encode_of_dataFields {c : Byte} {w : Nat} {mk : List Byte → Byte → List Byte → Byte → Instr} {rest : List Byte}
    (hmk : ∀ id len payload cr, isWireFrame (mk id len payload cr) = true ∧
      encode (mk id len payload cr) = c :: (id ++ len :: (payload ++ [cr])))
    (h : dataFields c w mk rest = .ok i) : isWireFrame i = true ∧ encode i = c :: rest := by
  unfold dataFields at h
  split at h
  · cases h
  · next hlen =>
    cases h
    obtain ⟨hwire, henc⟩ := hmk (rest.take w) (rest.getD w 0) (rest.drop (w + 1)).dropLast (rest.getLastD 0)
    exact ⟨hwire, by rw [henc, take_append_getD_cons_dropLast_concat (by omega)]⟩

theorem encode_of_remoteFields {c : Byte} {w : Nat} {mk : List Byte → Byte → Byte → Instr} {rest : List Byte}
    (hmk : ∀ id len cr, isWireFrame (mk id len cr) = true ∧ encode (mk id len cr) = c :: (id ++ [len, cr]))
    (h : remoteFields c w mk rest = .ok i) : isWireFrame i = true ∧ encode i = c :: rest := by
  unfold remoteFields at h
  split at h
  · next hlen =>
    cases h
    obtain ⟨hwire, henc⟩ := hmk (rest.take w) (rest.getD w 0) (rest.getD (w + 1) 0)
    have hdrop : rest.drop (w + 2) = [] := List.drop_eq_nil_of_le hlen.le
    refine ⟨hwire, ?_⟩
    rw [henc, List.getD_eq_getElem _ _ (by omega), List.getD_eq_getElem _ _ (by omega), ← hdrop,
      List.cons_getElem_drop_succ, List.cons_getElem_drop_succ, List.take_append_drop]
  · cases h

/-- Received bytes that form a wire frame are its bytes (R102 to R108). -/
theorem encode_of_decodeWire (h : decodeWire bytes = .ok i) : isWireFrame i = true ∧ encode i = bytes := by
  cases bytes with
  | nil => cases h
  | cons c rest =>
    simp only [decodeWire] at h
    split at h
    case h_1 hc =>
      obtain rfl : c = 0x74 := BitVec.eq_of_toNat_eq hc
      exact encode_of_dataFields (fun _ _ _ _ => ⟨rfl, by simp [encode]⟩) h
    case h_2 hc =>
      obtain rfl : c = 0x72 := BitVec.eq_of_toNat_eq hc
      exact encode_of_remoteFields (fun _ _ _ => ⟨rfl, rfl⟩) h
    case h_3 hc =>
      obtain rfl : c = 0x54 := BitVec.eq_of_toNat_eq hc
      exact encode_of_dataFields (fun _ _ _ _ => ⟨rfl, by simp [encode]⟩) h
    case h_4 hc =>
      obtain rfl : c = 0x52 := BitVec.eq_of_toNat_eq hc
      exact encode_of_remoteFields (fun _ _ _ => ⟨rfl, rfl⟩) h
    case h_5 hc =>
      obtain rfl : c = 0x53 := BitVec.eq_of_toNat_eq hc
      split at h
      · cases h
        exact ⟨rfl, rfl⟩
      · cases h
    case h_6 hc =>
      obtain rfl : c = 0x4F := BitVec.eq_of_toNat_eq hc
      split at h
      · cases h
        exact ⟨rfl, rfl⟩
      · cases h
    case h_7 => cases h

/-- R62: received bytes arrive, whether they form a frame or not. -/
theorem step_of_inputs_eq_rx {rest : List Event} (hin : s.inputs = .rx bytes :: rest) :
    step s = .next (State.receive { s with inputs := rest } bytes) := by
  cases hd : decodeWire bytes with
  | ok i =>
    obtain ⟨hwire, henc⟩ := encode_of_decodeWire hd
    rw [step_of_fetchEvent_instr hin (fetchEvent_rx_of_decodeWire hd), exec_of_isWireFrame hwire, henc]
  | error r => simp only [step, fetch_of_inputs_eq_cons hin, fetchEvent, hd]

/-- Settles O16: the step is the arrival of the bytes, on the state without their input. -/
theorem anyReceivedBytesArrive : Obligations.AnyReceivedBytesArrive := by
  intro s bytes rest hin _ hc hw
  exact ⟨_, step_of_inputs_eq_rx hin, State.arrived_receive (s := { s with inputs := rest }) hc hw bytes⟩

/-! ### Overrun -/

/-- R79: after a pass, the bytes that arrive are counted modulo `M`. -/
theorem State.newByteCount_receive (hc : s.trxCur < s.cfg.trxCap) (hl : s.lastCur = s.trxCur) (bs : List Byte) :
    newByteCount (s.receive bs).trxCur (s.receive bs).lastCur (s.receive bs).cfg.trxCap =
      bs.length % s.cfg.trxCap := by
  rw [State.receive_trxCur s bs hc, State.receive_lastCur, State.receive_cfg, hl, newByteCount_advance hc]

/-- Settles O48: the count is modulo `M`, so that of exactly `M` bytes is 0 and the pass has nothing to do. -/
theorem overrunSeesCountModuloM : Obligations.OverrunSeesCountModuloM := by
  intro s bs hc hl
  have hcount := State.newByteCount_receive hc hl bs
  refine ⟨by rw [State.newBytes_length, hcount], fun hM => State.pass_of_no_bytes ?_⟩
  rw [hcount, hM, Nat.mod_self]

end Sys2Proof.Machine
end

section
/-! SUPPORT. Digits on the wire (R66): which bits a digit of a field carries, and the two digits of a payload byte. -/

namespace Sys2Proof

theorem hexDigits_getElem? {w j : Nat} (h : j < w) (v : Nat) :
    (hexDigits w v)[j]? = some (hexDig (v / 16 ^ (w - 1 - j) % 16)) := by
  induction w generalizing j with
  | zero => cases h
  | succ w ih =>
    cases j with
    | zero => rfl
    | succ j =>
      have hexp : w + 1 - 1 - (j + 1) = w - 1 - j := by omega
      rw [hexDigits, List.getElem?_cons_succ, ih (Nat.lt_of_succ_lt_succ h), hexp]

/-- Four bits make a hexadecimal digit. -/
theorem shiftRight_four_mul (v n : Nat) : v >>> (4 * n) = v / 16 ^ n := by
  rw [Nat.shiftRight_eq_div_pow, Nat.pow_mul]

theorem payloadDigits_singleton (p : Byte) :
    payloadDigits [p] = [hexDig (p.toNat / 16), hexDig (p.toNat % 16)] := by
  have hhigh : p.toNat / 16 % 16 = p.toNat / 16 := by omega
  simp [payloadDigits, hexDigits, hhigh]

theorem parsePairs_one {a b : Byte} {hi lo : Nat} (ha : hexVal a = some hi) (hb : hexVal b = some lo) :
    parsePairs 1 [a, b] = some [BitVec.ofNat 8 (16 * hi + lo)] := by
  simp [parsePairs, parseHex, parseHexFrom, ha, hb]

/-- Settles O23: a shift by a multiple of four bits is a division by a power of 16, which is how `hexDigits` picks a digit. -/
theorem digitsMostSignificantFirst : Obligations.DigitsMostSignificantFirst := by
  refine ⟨fun w v j h => ?field, payloadDigits_singleton, fun _ _ _ _ ha hb => parsePairs_one ha hb, by decide⟩
  case field => rw [hexDigits_getElem? h, shiftRight_four_mul]

end Sys2Proof
end

section
/-! SUPPORT. What an operation does when it is issued again (R72, R211). -/

namespace Sys2Proof.Machine

variable {s t : State}

/-! ### A pass that has been made -/

theorem State.pass_of_caughtUp (hc : s.trxCur < s.cfg.trxCap) (hl : s.lastCur = s.trxCur) : s.pass = s :=
  State.pass_of_no_bytes ((newByteCount_eq_zero_iff hc (hl ▸ hc)).2 hl)

/-- R207: a pass leaves nothing to read. -/
theorem State.pass_lastCur (hc : s.trxCur < s.cfg.trxCap) (hl : s.lastCur < s.cfg.trxCap) :
    s.pass.lastCur = s.trxCur := by
  by_cases hn : newByteCount s.trxCur s.lastCur s.cfg.trxCap = 0
  · rw [State.pass_of_no_bytes hn, (newByteCount_eq_zero_iff hc hl).1 hn]
  · rw [State.pass_of_bytes hn, State.commitCursor_lastCur]

theorem State.pass_finish_pass (hc : s.trxCur < s.cfg.trxCap) (hl : s.lastCur < s.cfg.trxCap) (v : Option Value) :
    (s.pass.finish v).pass = s.pass.finish v :=
  State.pass_of_caughtUp (by simpa using hc) (by simpa using State.pass_lastCur hc hl)

/-! ### The operations of an acquired facet -/

theorem exec_rxbuf (ha : s.trAcq = true) : exec .rxbuf s = .next (s.pass.finish (some (.extent s.pass.ringCap))) :=
  withFacet_of_holds (f := .transceiver) ha _

theorem exec_rxcur (ha : s.trAcq = true) : exec .rxcur s = .next (s.pass.finish (some (.cursor s.pass.widx))) :=
  withFacet_of_holds (f := .transceiver) ha _

theorem exec_regboff (ha : s.bmAcq = true) (cb : Token) : exec (.regboff cb) s = .next ((s.setBoff cb).finish none) :=
  withFacet_of_holds (f := .busManager) ha _

theorem exec_buson_of_open (ha : s.bmAcq = true) (ho : s.busOpen = true) : exec .buson s = .next (s.finish none) := by
  simp [exec, execBuson, withFacet, ha, ho]

theorem exec_setbaud_of_rate (ha : s.bmAcq = true) (ho : s.busOpen = false) {hz : Word} {x : Byte}
    (hx : baudCh hz = some x) :
    exec (.setbaud hz) s = .next (((s.tx (encode (.baudFrame x crByte))).setBaud hz).finish none) := by
  simp [exec, execSetbaud, withFacet, ha, ho, hx]

theorem exec_send_of_open (ha : s.trAcq = true) (ho : s.busOpen = true) {m : Message} (hm : validMessage m = true) :
    exec (.send m) s = .next ((s.tx (enc m)).finish none) := by
  simp [exec, execSend, withFacet, ha, ho, hm]

theorem exec_acqbm_of_held (ha : s.bmAcq = true) : exec .acqbm s = .next (s.raise .busy) := if_pos ha

theorem exec_acqtr_of_held (ha : s.trAcq = true) (req : Word) : exec (.acqtr req) s = .next (s.raise .busy) := if_pos ha

/-! ### Operations that change nothing when repeated -/

theorem rxbuf_idempotent (hc : s.trxCur < s.cfg.trxCap) (hl : s.lastCur < s.cfg.trxCap) (h : exec .rxbuf s = .next t) :
    exec .rxbuf t = .next t := by
  obtain ⟨ha, rfl⟩ := exec_rxbuf_next h
  rw [exec_rxbuf (by simpa using ha), State.pass_finish_pass hc hl, State.finish_ringCap, State.pass_ringCap]
  rfl

theorem rxcur_idempotent (hc : s.trxCur < s.cfg.trxCap) (hl : s.lastCur < s.cfg.trxCap) (h : exec .rxcur s = .next t) :
    exec .rxcur t = .next t := by
  obtain ⟨ha, rfl⟩ := exec_rxcur_next h
  rw [exec_rxcur (by simpa using ha), State.pass_finish_pass hc hl, State.finish_widx]
  rfl

theorem buson_idempotent (h : exec .buson s = .next t) : exec .buson t = .next t := by
  obtain ⟨ha, ⟨ho, rfl⟩ | ⟨-, rfl⟩⟩ := exec_buson_next h
  · exact exec_buson_of_open ha ho
  · exact exec_buson_of_open ha rfl

/-! ### Operations that have an effect again -/

theorem acqbm_takes_bmAcq (h : exec .acqbm s = .next t) : t.bmAcq = true := by
  obtain ⟨ha, rfl⟩ | ⟨-, rfl⟩ := exec_acqbm_next h
  · exact ha
  · rfl

theorem acqtr_takes_trAcq {req : Word} (h : exec (.acqtr req) s = .next t) : t.trAcq = true := by
  obtain ⟨ha, rfl⟩ | ⟨-, -, rfl⟩ := exec_acqtr_next h
  · exact ha
  · rfl

/-- An instruction that, once it has returned OK, emits the same bytes again when repeated. -/
def EmitsAgain (i : Instr) (s t : State) : Prop :=
  ∃ bs u, bs ≠ [] ∧ t.txlog = s.txlog ++ bs ∧ exec i t = .next u ∧ u.txlog = s.txlog ++ bs ++ bs

theorem setbaud_emitsAgain {hz : Word} (h : exec (.setbaud hz) s = .next t) (hok : t.reply = some ⟨.ok, none⟩) :
    EmitsAgain (.setbaud hz) s t := by
  obtain ⟨ha, ⟨-, rfl⟩ | ⟨-, -, rfl⟩ | ⟨x, ho, hx, rfl⟩⟩ := exec_setbaud_next h
  · cases hok
  · cases hok
  · refine ⟨encode (.baudFrame x crByte), _, List.cons_ne_nil _ _, rfl, exec_setbaud_of_rate ?_ ?_ hx, rfl⟩
    · exact ha
    · exact ho

theorem send_emitsAgain {m : Message} (h : exec (.send m) s = .next t) (hok : t.reply = some ⟨.ok, none⟩) :
    EmitsAgain (.send m) s t := by
  obtain ⟨ha, ⟨ho, hm, rfl⟩ | ⟨-, rfl⟩⟩ := exec_send_next h
  · refine ⟨enc m, _, by simp [enc], rfl, exec_send_of_open ?_ ?_ hm, rfl⟩
    · exact ha
    · exact ho
  · cases hok

/-- Settles O46: a pass leaves nothing to read, and what guards an operation is kept by it or, in ACQBM and ACQTR, turned. -/
theorem idempotentAndNotIdempotent : Obligations.IdempotentAndNotIdempotent := by
  refine ⟨fun s => State.pass_of_caughtUp, fun s t => rxbuf_idempotent, fun s t => rxcur_idempotent,
    fun s t => buson_idempotent, fun s t mode h => ?setfilt, fun s t h _ => exec_acqbm_of_held (acqbm_takes_bmAcq h),
    fun s t req req' h _ => exec_acqtr_of_held (acqtr_takes_trAcq h) req', fun s t hz => setbaud_emitsAgain,
    fun s t m => send_emitsAgain, fun s t a b h => ?regboff⟩
  case setfilt =>
    obtain ⟨-, rfl⟩ := exec_setfilt_next h
    rfl
  case regboff =>
    obtain ⟨ha, rfl⟩ := exec_regboff_next h
    exact ⟨_, exec_regboff ha b, rfl⟩

end Sys2Proof.Machine
end

section
/-! SUPPORT. What the host operations do with the transport's ring (R61): none writes it, a pass reads its new bytes, and the
others read nothing of it. -/

namespace Sys2Proof.Machine

variable {s t : State} {i : Instr}

/-! ### No host operation writes it -/

theorem Completes.trx_eq (hc : Completes i s t) (hi : isWireFrame i = false) : t.trx = s.trx ∧ t.trxCur = s.trxCur := by
  cases hc with
  | arrives _ _ hw => simp [hi] at hw
  | _ => simp

/-! ### A pass reads its new bytes only -/

/-- The state with another content in the transport's ring. -/
def State.withTrx (s : State) (m : Memory) : State := { s with trx := m }

theorem State.newBytes_withTrx {m : Memory}
    (h : ∀ i, i < newByteCount s.trxCur s.lastCur s.cfg.trxCap →
      m.read ((s.lastCur + i) % s.cfg.trxCap) = s.trx.read ((s.lastCur + i) % s.cfg.trxCap)) :
    (s.withTrx m).newBytes = s.newBytes :=
  List.map_congr_left fun i hi => h i (List.mem_range.1 hi)

/-- A byte step does not read the transport's ring. -/
theorem ParserEquiv.withTrx (s : State) (m : Memory) : ParserEquiv (s.withTrx m) s :=
  ⟨rfl, rfl, rfl, rfl, rfl, rfl, Slots.Equiv.refl _⟩

/-- Parsers that are `~` and agree on all that a pass leaves alone are `~` as states, but for the transport's ring. -/
theorem ParserEquiv.state_withTrx {m : Memory} {u v : State} (h : ParserEquiv u v)
    (hu : SameOutsideParser (s.withTrx m) u) (hv : SameOutsideParser s v) : State.Equiv u (v.withTrx m) := by
  refine ⟨h.slots, ?_⟩
  unfold SameOutsideParser at hu hv
  rw [hu, hv]
  simp [State.withTrx, h.widx, h.asm, h.fill, h.draws]

theorem State.Equiv.refl (s : State) : State.Equiv s s := ⟨Slots.Equiv.refl _, rfl⟩

theorem State.Equiv.commitCursor (h : State.Equiv s t) (c : Nat) : State.Equiv (s.commitCursor c) (t.commitCursor c) := by
  obtain ⟨hslots, heq⟩ := h
  exact ⟨hslots, by rw [heq]; rfl⟩

theorem State.pass_withTrx {m : Memory}
    (h : ∀ i, i < newByteCount s.trxCur s.lastCur s.cfg.trxCap →
      m.read ((s.lastCur + i) % s.cfg.trxCap) = s.trx.read ((s.lastCur + i) % s.cfg.trxCap)) :
    State.Equiv (s.withTrx m).pass (s.pass.withTrx m) := by
  by_cases hn : newByteCount s.trxCur s.lastCur s.cfg.trxCap = 0
  · rw [State.pass_of_no_bytes hn, State.pass_of_no_bytes (s := s.withTrx m) hn]
    exact State.Equiv.refl _
  · rw [State.pass_of_bytes hn, State.pass_of_bytes (s := s.withTrx m) hn, State.newBytes_withTrx h]
    have hbytes := (ParserEquiv.withTrx s m).foldl s.newBytes
    exact (hbytes.state_withTrx (State.foldl_pbyte_frame _ _) (State.foldl_pbyte_frame _ _)).commitCursor s.trxCur

/-! ### The other operations do not read it -/

theorem mapNext_withFacet (f : State → State) (k : Facet) (s : State) (run : Host.Outcome State Fault Refusal) :
    mapNext f (withFacet k s run) = withFacet k s (mapNext f run) := by
  unfold withFacet
  split <;> rfl

theorem mapNext_ite (f : State → State) (p : Prop) [Decidable p] (a b : Host.Outcome State Fault Refusal) :
    mapNext f (if p then a else b) = if p then mapNext f a else mapNext f b := apply_ite (mapNext f) p a b

theorem exec_withTrx (hi : isWireFrame i = false) (hp : runsPass i = false) (s : State) (m : Memory) :
    exec i (s.withTrx m) = mapNext (·.withTrx m) (exec i s) := by
  cases i with
  | stdData | stdRemote | extData | extRemote | baudFrame | openFrame => cases hi
  | rxbuf | rxcur => cases hp
  | setbaud hz =>
    simp only [exec, execSetbaud, mapNext_withFacet, mapNext_ite]
    cases baudCh hz <;> rfl
  | acqbm | acqtr | setfilt | regboff | buson | baud | send | rdslot =>
    simp only [exec, execAcqbm, execAcqtr, execSetfilt, execRegboff, execBuson, execBaud, execSend, execRdslot,
      mapNext_withFacet, mapNext_ite]
    rfl

/-- Settles O60: no host operation writes the ring, a pass depends on its new bytes, and no other operation on any byte. -/
theorem transportRingIsReadOnly : Obligations.TransportRingIsReadOnly :=
  ⟨fun _ _ _ hi h => (completes_of_exec h).trx_eq hi, fun _ _ h => State.pass_withTrx h,
    fun _ s m hi hp => exec_withTrx hi hp s m⟩

end Sys2Proof.Machine
end

section
/-! SUPPORT. The decoder and the encoder of the instructions (30_encoding.md; entry 14): each decoding function succeeds
exactly on the bytes the encoder writes, so the two are inverse to each other, field by field. -/

namespace Sys2Proof

open Machine

variable {code : Nat} {ops bytes : List Byte} {i : Instr}

/-! ### Operands -/

theorem wordBytes_wordOfBytes (b3 b2 b1 b0 : Byte) : wordBytes (wordOfBytes b3 b2 b1 b0) = [b3, b2, b1, b0] := by
  simp only [wordBytes, wordOfBytes, List.cons.injEq, and_true]
  refine ⟨?_, ?_, ?_, ?_⟩ <;> ext k hk <;> grind

theorem wordOfBytes_extractLsb' (w : Word) :
    wordOfBytes (w.extractLsb' 24 8) (w.extractLsb' 16 8) (w.extractLsb' 8 8) (w.extractLsb' 0 8) = w := by
  unfold wordOfBytes
  ext k hk
  grind

theorem flagOfByte_eq_some {b : Byte} {e : Bool} : flagOfByte b = some e ↔ b = flagByte e := by
  constructor
  · intro h
    unfold flagOfByte at h
    split at h
    case isTrue hb => cases h; exact hb
    case isFalse =>
      split at h
      case isTrue hb => cases h; exact hb
      case isFalse => cases h
  · rintro rfl
    cases e <;> rfl

/-- A payload, written out byte by byte. -/
theorem payload_eq_literal (p : Vector Byte 8) : p = #v[p[0], p[1], p[2], p[3], p[4], p[5], p[6], p[7]] := by
  ext k hk
  interval_cases k <;> rfl

theorem noOperand_eq_ok {j : Instr} : noOperand code j ops = .ok i ↔ ops = [] ∧ i = j := by
  cases ops <;> simp [noOperand, eq_comm]

theorem wordOperand_eq_ok {mk : Word → Instr} :
    wordOperand code mk ops = .ok i ↔ ∃ w, ops = wordBytes w ∧ i = mk w := by
  constructor
  · intro h
    unfold wordOperand at h
    split at h
    · next b3 b2 b1 b0 =>
      cases h
      exact ⟨_, (wordBytes_wordOfBytes b3 b2 b1 b0).symm, rfl⟩
    · cases h
  · rintro ⟨w, rfl, rfl⟩
    simp only [wordBytes, wordOperand, wordOfBytes_extractLsb']

theorem messageOperand_eq_ok :
    messageOperand code ops = .ok i ↔ ∃ m : Message, m.length < 256 ∧ ops = messageBytes m ∧ i = .send m := by
  constructor
  · intro h
    unfold messageOperand at h
    split at h
    · next b3 b2 b1 b0 e r n _ _ _ _ _ _ _ _ =>
      split at h
      · next hext hrtr =>
        cases h
        refine ⟨_, n.isLt, ?_, rfl⟩
        simp [messageBytes, wordBytes_wordOfBytes, ← flagOfByte_eq_some.1 hext, ← flagOfByte_eq_some.1 hrtr]
      · cases h
    · cases h
  · rintro ⟨⟨id, ext, rtr, n, p⟩, hn, rfl, rfl⟩
    rw [payload_eq_literal p]
    simp [messageBytes, wordBytes, messageOperand, flagOfByte_eq_some.2 rfl, wordOfBytes_extractLsb', hn]

/-! ### The fields of a frame -/

theorem dataFields_append {c len cr : Byte} {w : Nat} {mk : List Byte → Byte → List Byte → Byte → Instr}
    {id payload : List Byte} (hid : id.length = w) :
    dataFields c w mk (id ++ len :: (payload ++ [cr])) = .ok (mk id len payload cr) := by
  subst hid
  have hlong : ¬ (id ++ len :: (payload ++ [cr])).length < id.length + 2 := by simp
  have hlast : (id ++ len :: (payload ++ [cr])).getLastD 0 = cr := by
    simp [List.getLastD_eq_getLast?, List.getLast?_cons]
  rw [dataFields, if_neg hlong, hlast]
  simp

theorem remoteFields_append {c len cr : Byte} {w : Nat} {mk : List Byte → Byte → Byte → Instr} {id : List Byte}
    (hid : id.length = w) : remoteFields c w mk (id ++ [len, cr]) = .ok (mk id len cr) := by
  subst hid
  simp [remoteFields]

theorem length_of_isIdField {w : Nat} {id : List Byte} (h : isIdField w id = true) : id.length = w := by
  simp only [isIdField, Bool.and_eq_true, beq_iff_eq] at h
  exact h.1

/-! ### Decoding what was encoded -/

/-- The first byte of an instruction tells a wire frame from a host operation (R102, R119). -/
theorem isCommandByte_headD_encode (i : Instr) : isCommandByte ((encode i).headD 0) = isWireFrame i := by
  cases i <;> rfl

theorem decodeWire_encode (hi : isWireFrame i = true) (hw : i.wellFormed = true) : decodeWire (encode i) = .ok i := by
  cases i with
  | stdData id len payload cr | extData id len payload cr =>
    simp only [Instr.wellFormed, Bool.and_eq_true] at hw
    obtain ⟨⟨⟨hid, -⟩, -⟩, -⟩ := hw
    simp only [encode, List.append_assoc, List.cons_append]
    exact dataFields_append (length_of_isIdField hid)
  | stdRemote id len cr | extRemote id len cr =>
    simp only [Instr.wellFormed, Bool.and_eq_true] at hw
    obtain ⟨⟨hid, -⟩, -⟩ := hw
    exact remoteFields_append (length_of_isIdField hid)
  | baudFrame | openFrame => rfl
  | _ => cases hi

theorem decodeHost_encode (hi : isWireFrame i = false) (hw : i.wellFormed = true) : decodeHost (encode i) = .ok i := by
  cases i with
  | stdData | stdRemote | extData | extRemote | baudFrame | openFrame => cases hi
  | acqtr w => exact (wordOperand_eq_ok (code := 0x1)).2 ⟨w, rfl, rfl⟩
  | setbaud w => exact (wordOperand_eq_ok (code := 0x2)).2 ⟨w, rfl, rfl⟩
  | rdslot w => exact (wordOperand_eq_ok (code := 0xA)).2 ⟨w, rfl, rfl⟩
  | acqbm | setfilt | regboff | buson | baud | rxbuf | rxcur => rfl
  | send m => exact messageOperand_eq_ok.2 ⟨m, of_decide_eq_true hw, rfl, rfl⟩

/-- Settles O18: the first byte chooses the decoder, which reads back the fields or the operand. -/
theorem decodeOfEncodedInstruction : Obligations.DecodeOfEncodedInstruction := by
  intro i hw
  unfold decode
  rw [isCommandByte_headD_encode]
  split
  case isTrue hi => exact decodeWire_encode hi hw
  case isFalse hi => exact decodeHost_encode (Bool.eq_false_iff.2 hi) hw

/-! ### Encoding what was decoded -/

theorem eq_ofNat_of_toNat_eq {c : Byte} (hc : c.toNat = code) : c = BitVec.ofNat 8 code := by
  rw [← hc, BitVec.ofNat_toNat, BitVec.setWidth_eq]

theorem encode_of_noOperand {c : Byte} {j : Instr} (hc : c.toNat = code) (h : noOperand code j ops = .ok i)
    (hj : encode j = [BitVec.ofNat 8 code]) : encode i = c :: ops := by
  obtain ⟨rfl, rfl⟩ := noOperand_eq_ok.1 h
  rw [hj, eq_ofNat_of_toNat_eq hc]

theorem encode_of_wordOperand {c : Byte} {mk : Word → Instr} (hc : c.toNat = code)
    (h : wordOperand code mk ops = .ok i) (hmk : ∀ w, encode (mk w) = BitVec.ofNat 8 code :: wordBytes w) :
    encode i = c :: ops := by
  obtain ⟨w, rfl, rfl⟩ := wordOperand_eq_ok.1 h
  rw [hmk, eq_ofNat_of_toNat_eq hc]

/-- A select code and operand bytes that form a host operation are its bytes (R119; entry 14). -/
theorem encode_of_decodeHost (h : decodeHost bytes = .ok i) : encode i = bytes := by
  cases bytes with
  | nil => cases h
  | cons c ops =>
    simp only [decodeHost] at h
    split at h
    case h_1 hc | h_6 hc | h_7 hc | h_9 hc | h_10 hc => exact encode_of_noOperand hc h rfl
    case h_2 hc | h_3 hc | h_11 hc => exact encode_of_wordOperand hc h fun _ => rfl
    case h_4 hc | h_5 hc =>
      cases h
      rw [eq_ofNat_of_toNat_eq hc]
      rfl
    case h_8 hc =>
      obtain ⟨m, -, rfl, rfl⟩ := messageOperand_eq_ok.1 h
      rw [eq_ofNat_of_toNat_eq hc]
      rfl
    case h_12 => split at h <;> cases h

/-- Settles O19: whichever decoder answered, the instruction's bytes are the ones it was given. -/
theorem encodeOfDecodedInstruction : Obligations.EncodeOfDecodedInstruction := by
  intro bytes i h
  unfold decode at h
  split at h
  · exact (encode_of_decodeWire h).2
  · exact encode_of_decodeHost h

end Sys2Proof
end

section
/-! SUPPORT. The encoded message byte by byte (R103 to R106), its command byte (R109), and the frames that are sent and never
decoded (R107, R108). -/

namespace Sys2Proof

open Machine

variable {m : Message} {pad : Nat → Byte} {c : Byte}

/-! ### The command byte -/

theorem frameKind_eq_some {e r : Bool} : frameKind c = some (e, r) ↔ c = commandByte e r := by
  constructor
  · intro h
    unfold frameKind at h
    split at h
    case isTrue hc => cases h; exact hc
    split at h
    case isTrue hc => cases h; exact hc
    split at h
    case isTrue hc => cases h; exact hc
    split at h
    case isTrue hc => cases h; exact hc
    case isFalse => cases h
  · rintro rfl
    exact frameKind_commandByte e r

/-- Settles O26: the table has four rows, and `frameKind` reads each back. -/
theorem commandByteSelectsKind : Obligations.CommandByteSelectsKind :=
  ⟨rfl, rfl, rfl, rfl, fun _ _ _ => frameKind_eq_some, by decide, by decide⟩

/-! ### The bytes of an encoded message, by position -/

theorem payloadDigits_cons (p : Byte) (ps : List Byte) :
    payloadDigits (p :: ps) = hexDig (p.toNat / 16) :: hexDig (p.toNat % 16) :: payloadDigits ps := by
  have h := payloadDigits_singleton p
  simp only [payloadDigits, List.append_nil] at h
  rw [payloadDigits, h]
  rfl

/-- R113: the pair of digits of payload byte `k`. -/
theorem payloadDigits_getElem? {ps : List Byte} {k : Nat} (h : k < ps.length) :
    (payloadDigits ps)[2 * k]? = some (hexDig (ps[k].toNat / 16)) ∧
    (payloadDigits ps)[2 * k + 1]? = some (hexDig (ps[k].toNat % 16)) := by
  induction ps generalizing k with
  | nil => cases h
  | cons p ps ih =>
    rw [payloadDigits_cons]
    cases k with
    | zero => exact ⟨rfl, rfl⟩
    | succ k => exact ih (Nat.lt_of_succ_lt_succ h)

/-- The digits of the payload field: none in a remote frame (R104, R106), else a pair per byte (R113). -/
def payloadField (m : Message) : List Byte :=
  if m.remoteRequest then [] else payloadDigits (m.payload.toList.take m.length)

theorem enc_eq (m : Message) :
    enc m = commandByte m.extended m.remoteRequest ::
      (hexDigits (idDigits m.extended) m.id.toNat ++ lengthDigit m.length :: (payloadField m ++ [crByte])) := by
  simp [enc, payloadField]

theorem payloadField_of_remote (hr : m.remoteRequest = true) : payloadField m = [] := if_pos hr

theorem payloadField_of_data (hr : m.remoteRequest = false) :
    payloadField m = payloadDigits (m.payload.toList.take m.length) := by
  simp [payloadField, hr]

theorem payloadField_length_of_data (hr : m.remoteRequest = false) (hl : m.length ≤ 8) :
    (payloadField m).length = 2 * m.length := by
  simp [payloadField_of_data hr, hl]

theorem enc_getElem?_zero {e r : Bool} (he : m.extended = e) (hr : m.remoteRequest = r) :
    (enc m)[0]? = some (commandByte e r) := by
  rw [enc_eq, he, hr]
  rfl

section
variable {w : Nat} (hw : idDigits m.extended = w)
include hw

theorem enc_length : (enc m).length = w + 3 + (payloadField m).length := by
  simp only [enc_eq, List.length_cons, List.length_append, hexDigits_length, hw, List.length_nil]
  omega

theorem enc_getElem?_id {j : Nat} (h : j < w) :
    (enc m)[1 + j]? = some (hexDig (m.id.toNat / 16 ^ (w - 1 - j) % 16)) := by
  subst hw
  rw [enc_eq, Nat.add_comm, List.getElem?_cons_succ, List.getElem?_append_left (by simpa using h), hexDigits_getElem? h]

/-- What stands behind the ID field: the length digit, the payload field and the terminator. -/
theorem enc_getElem?_afterId {n k : Nat} (hn : n = w + 1 + k) :
    (enc m)[n]? = (lengthDigit m.length :: (payloadField m ++ [crByte]))[k]? := by
  subst hn hw
  rw [enc_eq, Nat.add_right_comm, List.getElem?_cons_succ, List.getElem?_append_right (by simp)]
  simp

theorem enc_getElem?_length : (enc m)[w + 1]? = some (lengthDigit m.length) := enc_getElem?_afterId hw (k := 0) rfl

/-- R113: a data frame's pair of digits for payload byte `k`. -/
theorem enc_getElem?_payload (hr : m.remoteRequest = false) {k : Nat} (h8 : k < 8) (hk : k < m.length) :
    (enc m)[w + 2 + 2 * k]? = some (hexDig (m.payload[k].toNat / 16)) ∧
    (enc m)[w + 3 + 2 * k]? = some (hexDig (m.payload[k].toNat % 16)) := by
  have hlen : k < (m.payload.toList.take m.length).length := by
    simp
    omega
  obtain ⟨hhigh, hlow⟩ := payloadDigits_getElem? hlen
  rw [← payloadField_of_data hr] at hhigh hlow
  have hbyte : (m.payload.toList.take m.length)[k] = m.payload[k] := by simp
  rw [hbyte] at hhigh hlow
  constructor
  · rw [enc_getElem?_afterId hw (k := 2 * k + 1) (by omega), List.getElem?_cons_succ]
    exact List.getElem?_append_left (List.getElem?_eq_some_iff.1 hhigh).1 |>.trans hhigh
  · rw [enc_getElem?_afterId hw (k := 2 * k + 1 + 1) (by omega), List.getElem?_cons_succ]
    exact List.getElem?_append_left (List.getElem?_eq_some_iff.1 hlow).1 |>.trans hlow

theorem enc_getElem?_last : (enc m)[w + 2 + (payloadField m).length]? = some 0x0D := by
  rw [enc_getElem?_afterId hw (k := (payloadField m).length + 1) (by omega), List.getElem?_cons_succ]
  exact List.getElem?_concat_length

/-- How long a data frame is, and its terminator. -/
theorem enc_data_end (hr : m.remoteRequest = false) (hl : m.length ≤ 8) :
    (enc m).length = w + 3 + 2 * m.length ∧ (enc m)[w + 2 + 2 * m.length]? = some 0x0D := by
  rw [← payloadField_length_of_data hr hl]
  exact ⟨enc_length hw, enc_getElem?_last hw⟩

/-- How long a remote frame is, and its terminator. -/
theorem enc_remote_end (hr : m.remoteRequest = true) : (enc m).length = w + 3 ∧ (enc m)[w + 2]? = some 0x0D := by
  have hp : (payloadField m).length = 0 := by rw [payloadField_of_remote hr, List.length_nil]
  have hlen := enc_length hw
  have hlast := enc_getElem?_last hw
  rw [hp] at hlen hlast
  exact ⟨hlen, hlast⟩

end

/-! ### The four message frames -/

/-- Settles O24: with three ID digits, the positions of `enc_getElem?_id` and of what follows the ID field are R103's. -/
theorem standardFrameFormat : Obligations.StandardFrameFormat := by
  intro m he hl _
  have hw : idDigits m.extended = 3 := by rw [he]; rfl
  refine ⟨fun hr => ?data, fun hr => ?remote⟩
  case data =>
    obtain ⟨hlen, hlast⟩ := enc_data_end hw hr hl
    exact ⟨hlen, enc_getElem?_zero he hr, enc_getElem?_id hw (j := 0) (by decide),
      enc_getElem?_id hw (j := 1) (by decide), by simpa using enc_getElem?_id hw (j := 2) (by decide), enc_getElem?_length hw,
      fun k h8 hk => enc_getElem?_payload hw hr h8 hk, hlast⟩
  case remote => simp [enc_eq, he, hr, payloadField_of_remote hr, idDigits, hexDigits, commandByte, lengthDigit, crByte]

/-- A valid extended id has three zero bits above it, so its first digit is '0' or '1'. -/
theorem hexDig_first_of_id_le {v : Nat} (h : v ≤ 0x1FFFFFFF) :
    hexDig (v / 16 ^ 7 % 16) = 0x30 ∨ hexDig (v / 16 ^ 7 % 16) = 0x31 := by
  have hd : v / 16 ^ 7 % 16 = 0 ∨ v / 16 ^ 7 % 16 = 1 := by omega
  obtain hd | hd := hd <;> rw [hd]
  · exact .inl rfl
  · exact .inr rfl

/-- Settles O25: with eight ID digits, the same positions are R105's. -/
theorem extendedFrameFormat : Obligations.ExtendedFrameFormat := by
  intro m he hl hid
  have hw : idDigits m.extended = 8 := by rw [he]; rfl
  refine ⟨fun j hj => enc_getElem?_id hw hj, ?first, enc_getElem?_length hw, fun hr => ?data, fun hr => ?remote⟩
  case first =>
    rw [enc_getElem?_id hw (j := 0) (by decide)]
    exact (hexDig_first_of_id_le hid).imp (congrArg some) (congrArg some)
  case data =>
    obtain ⟨hlen, hlast⟩ := enc_data_end hw hr hl
    exact ⟨hlen, enc_getElem?_zero he hr, fun k h8 hk => enc_getElem?_payload hw hr h8 hk, hlast⟩
  case remote =>
    obtain ⟨hlen, hlast⟩ := enc_remote_end hw hr
    exact ⟨hlen, enc_getElem?_zero he hr, hlast⟩

/-! ### Frames that are sent only -/

theorem isBaudCode_of_baudCh {hz : Word} {x : Byte} (h : baudCh hz = some x) : isBaudCode x = true := by
  obtain ⟨l, r, hl, -⟩ := List.lookup_eq_some_iff.1 h
  have hmem : (hz, x) ∈ baudTable := by simp [hl]
  have hcodes : ∀ p ∈ baudTable, isBaudCode p.2 = true := by simp [baudTable, isBaudCode]
  exact hcodes _ hmem

theorem wellFormed_baudFrame {hz : Word} {x : Byte} (h : baudCh hz = some x) :
    (Instr.baudFrame x crByte).wellFormed = true := by
  simp [Instr.wellFormed, isBaudCode_of_baudCh h, isTerminator, crByte]

/-- R116, R118: `DEC` takes nothing that does not begin with the command byte of a message frame. -/
theorem dec_of_frameKind_eq_none (h : frameKind c = none) (rest : List Byte) : dec pad (c :: rest) = none := by
  simp only [dec, h]

/-- Settles O33: the table's codes are baud codes, and neither command byte is a message frame's. -/
theorem transmitOnlyFramesAreNotDecoded : Obligations.TransmitOnlyFramesAreNotDecoded := by
  refine ⟨fun hz x h => ?_, by decide, rfl, fun pad rest => ?_⟩
  · have hx := isBaudCode_of_baudCh h
    simp only [isBaudCode, Bool.and_eq_true, decide_eq_true_eq] at hx
    exact ⟨hx.1, hx.2, rfl, wellFormed_baudFrame h⟩
  · exact ⟨dec_of_frameKind_eq_none (by decide) rest, dec_of_frameKind_eq_none (by decide) rest⟩

end Sys2Proof
end

section
/-! SUPPORT. What the block emits (R239) is a well-formed frame (R102): every encoded message has the digits R110 to R113 ask
for. -/

namespace Sys2Proof

theorem isHexDigit_hexDig {v : Nat} (h : v < 16) : isHexDigit (hexDig v) = true := by
  interval_cases v <;> rfl

theorem isHexDigit_hexDigits (w v : Nat) : (hexDigits w v).all isHexDigit = true := by
  induction w with
  | zero => rfl
  | succ w ih => simp [hexDigits, isHexDigit_hexDig (Nat.mod_lt _ (by decide : 16 > 0)), ih]

theorem isIdField_hexDigits (w v : Nat) : isIdField w (hexDigits w v) = true := by
  simp [isIdField, isHexDigit_hexDigits]

theorem isHexDigit_payloadDigits (ps : List Byte) : (payloadDigits ps).all isHexDigit = true := by
  induction ps with
  | nil => rfl
  | cons p ps ih => rw [payloadDigits, List.all_append, isHexDigit_hexDigits, ih, Bool.and_self]

theorem lengthDigit_toNat {n : Nat} (h : n ≤ 8) : (lengthDigit n).toNat = 0x30 + n := by
  interval_cases n <;> rfl

theorem isLengthDigit_lengthDigit {n : Nat} (h : n ≤ 8) : isLengthDigit (lengthDigit n) = true := by
  simp only [isLengthDigit, lengthDigit_toNat h, Bool.and_eq_true, decide_eq_true_eq]
  omega

theorem isPayloadField_payloadDigits {n : Nat} (h : n ≤ 8) {ps : List Byte} (hps : ps.length = n) :
    isPayloadField (lengthDigit n) (payloadDigits ps) = true := by
  simp [isPayloadField, lengthDigit_toNat h, hps, -List.all_eq_true, isHexDigit_payloadDigits]

theorem isTerminator_crByte : isTerminator crByte = true := rfl

end Sys2Proof

namespace Sys2Proof.Machine

variable {s t : State} {i : Instr}

/-! ### The frame of a message -/

theorem isWireFrame_frameOf (m : Message) : isWireFrame (frameOf m) = true := by
  unfold frameOf
  split <;> rfl

theorem wellFormed_frameOf {m : Message} (h : validMessage m = true) : (frameOf m).wellFormed = true := by
  simp only [validMessage, Bool.and_eq_true, decide_eq_true_eq] at h
  obtain ⟨hl, -⟩ := h
  have hpayload : (m.payload.toList.take m.length).length = m.length := by simp [hl]
  unfold frameOf
  split <;>
  simp [Instr.wellFormed, isIdField_hexDigits, isLengthDigit_lengthDigit hl, isPayloadField_payloadDigits hl hpayload,
    isTerminator_crByte]

/-! ### What an instruction adds to the transmit stream -/

/-- Bytes that are nothing, or one well-formed wire frame. -/
def NothingOrFrame (bs : List Byte) : Prop :=
  bs = [] ∨ ∃ j, isWireFrame j = true ∧ j.wellFormed = true ∧ bs = encode j

@[simp] theorem State.receive_txlog (s : State) (bs : List Byte) : (s.receive bs).txlog = s.txlog := by
  rw [State.receive_frame]

/-- R239: SETBAUD, BUSON and SEND emit their frame, and every other way to complete emits nothing. -/
theorem Completes.emits_nothing_or_frame (hc : Completes i s t) :
    ∃ bs, t.txlog = s.txlog ++ bs ∧ NothingOrFrame bs := by
  cases hc with
  | setbaud hz x _ _ _ hx => exact ⟨_, rfl, .inr ⟨.baudFrame x crByte, rfl, wellFormed_baudFrame hx, rfl⟩⟩
  | buson => exact ⟨_, rfl, .inr ⟨.openFrame crByte, rfl, isTerminator_crByte, rfl⟩⟩
  | send m _ _ _ hm =>
    exact ⟨_, rfl, .inr ⟨frameOf m, isWireFrame_frameOf m, wellFormed_frameOf hm, (encode_frameOf m).symm⟩⟩
  | _ => exact ⟨[], by simp, .inl rfl⟩

/-- Settles O35: what SEND emits is the frame of its message, and the two control frames are emitted as such. -/
theorem emittedBytesAreOneFrame : Obligations.EmittedBytesAreOneFrame :=
  fun _ _ _ h => (completes_of_exec h).emits_nothing_or_frame

end Sys2Proof.Machine
end

section
/-! SUPPORT. The codec's primitives (R141 to R143, R157): a hexadecimal field read as a whole, its upper-case digits
written back, and the table of rates. -/

namespace Sys2Proof

variable {b : Byte} {s : List Byte} {ds : List Nat} {v n : Nat}

/-! ### One digit -/

theorem hexDig_toNat_of_lt_ten (h : v < 10) : (hexDig v).toNat = 0x30 + v := by
  rw [hexDig, if_pos h, BitVec.toNat_ofNat, Nat.mod_eq_of_lt (by omega)]

theorem hexDig_toNat_of_ten_le (h : 10 ≤ v) (hv : v < 16) : (hexDig v).toNat = 0x41 + (v - 10) := by
  rw [hexDig, if_neg (Nat.not_lt.2 h), BitVec.toNat_ofNat, Nat.mod_eq_of_lt (by omega)]

/-- Settles O21: below ten the digits start at '0', from ten on at 'A'. -/
theorem hexDigitsUpperCaseAndInvertible : Obligations.HexDigitsUpperCaseAndInvertible :=
  fun _ hv => ⟨hexDig_toNat_of_lt_ten, fun h => hexDig_toNat_of_ten_le h hv, hexVal_hexDig hv⟩

theorem hexVal_lt (h : hexVal b = some v) : v < 16 := by
  unfold hexVal at h
  split at h
  · cases h; omega
  split at h
  · cases h; omega
  split at h
  · cases h; omega
  · cases h

/-- A byte of `a`..`f`, which a decoder reads (R110) and the encoder never writes (R142). -/
def IsLowerDigit (b : Byte) : Prop := 0x61 ≤ b.toNat ∧ b.toNat ≤ 0x66

/-- An upper-case digit is what the encoder writes for its value. -/
theorem hexDig_of_hexVal (h : hexVal b = some v) (hb : ¬ IsLowerDigit b) : hexDig v = b := by
  apply BitVec.eq_of_toNat_eq
  unfold hexVal at h
  split at h
  · cases h; rw [hexDig_toNat_of_lt_ten (by omega)]; omega
  split at h
  · cases h; rw [hexDig_toNat_of_ten_le (by omega) (by omega)]; omega
  split at h
  case isTrue hl => exact absurd hl hb
  case isFalse => cases h

/-! ### A field of digits -/

/-- The base-16 value of digits, most significant first, to the right of the value `v` (R143). -/
def digitsValueFrom (v : Nat) (ds : List Nat) : Nat := ds.foldl (fun v d => 16 * v + d) v

@[simp] theorem digitsValueFrom_nil : digitsValueFrom v [] = v := rfl

@[simp] theorem digitsValueFrom_cons (d : Nat) : digitsValueFrom v (d :: ds) = digitsValueFrom (16 * v + d) ds := rfl

/-- Further digits keep the value read before them in front. -/
theorem digitsValueFrom_div (h : ∀ d ∈ ds, d < 16) : digitsValueFrom v ds / 16 ^ ds.length = v := by
  induction ds generalizing v with
  | nil => simp
  | cons d ds ih =>
    obtain ⟨hd, hds⟩ := List.forall_mem_cons.1 h
    rw [digitsValueFrom_cons, List.length_cons, pow_succ, ← Nat.div_div_eq_div_mul, ih hds]
    omega

theorem digitsValueFrom_zero_lt (h : ∀ d ∈ ds, d < 16) : digitsValueFrom 0 ds < 16 ^ ds.length :=
  Nat.lt_of_div_eq_zero (by positivity) (digitsValueFrom_div h)

theorem forall_lt_of_map_hexVal (h : s.map hexVal = ds.map some) : ∀ d ∈ ds, d < 16 := by
  intro d hd
  obtain ⟨b, -, hb⟩ := List.mem_map.1 (h ▸ List.mem_map_of_mem hd : some d ∈ s.map hexVal)
  exact hexVal_lt hb

theorem length_eq_of_map_hexVal (h : s.map hexVal = ds.map some) : s.length = ds.length := by
  simpa using congrArg List.length h

/-- R143: a field is read exactly if each of its bytes is a digit. -/
theorem parseHexFrom_eq_some :
    parseHexFrom v s = some n ↔ ∃ ds, s.map hexVal = ds.map some ∧ n = digitsValueFrom v ds := by
  induction s generalizing v with
  | nil =>
    constructor
    · rintro ⟨⟩
      exact ⟨[], rfl, rfl⟩
    · rintro ⟨ds, hds, rfl⟩
      rw [List.map_eq_nil_iff.1 hds.symm]
      rfl
  | cons b s ih =>
    simp only [parseHexFrom, List.map_cons]
    cases hb : hexVal b with
    | none =>
      refine iff_of_false (by simp) ?_
      rintro ⟨_ | ⟨d, ds⟩, hds, -⟩ <;> simp at hds
    | some d =>
      simp only [ih]
      constructor
      · rintro ⟨ds, hds, hn⟩
        exact ⟨d :: ds, by simp [hds], hn⟩
      · rintro ⟨_ | ⟨d', ds⟩, hds, hn⟩
        · cases hds
        · obtain ⟨hd, htail⟩ := List.cons.inj hds
          cases hd
          exact ⟨ds, htail, hn⟩

theorem parseHex_eq_some :
    parseHex s = some n ↔ ∃ ds, s.map hexVal = ds.map some ∧ n = digitsValueFrom 0 ds := parseHexFrom_eq_some

theorem parseHex_lt (h : parseHex s = some n) : n < 16 ^ s.length := by
  obtain ⟨ds, hds, rfl⟩ := parseHex_eq_some.1 h
  rw [length_eq_of_map_hexVal hds]
  exact digitsValueFrom_zero_lt (forall_lt_of_map_hexVal hds)

theorem parseHex_of_none_mem (h : none ∈ s.map hexVal) : parseHex s = none := by
  refine Option.eq_none_iff_forall_ne_some.2 fun n hn => ?_
  obtain ⟨ds, hds, -⟩ := parseHex_eq_some.1 hn
  simp [hds] at h

/-- Settles O22: `parsehex` answers exactly on digits, with their value, and each digit is below 16. -/
theorem parseHexReadsWholeField : Obligations.ParseHexReadsWholeField := by
  refine fun s => ⟨fun ds hds => ?_, parseHex_of_none_mem⟩
  have hread : parseHex s = some (digitsValueFrom 0 ds) := parseHex_eq_some.2 ⟨ds, hds, rfl⟩
  exact ⟨hread, parseHex_lt hread⟩

theorem hexDigits_digitsValueFrom (hs : s.map hexVal = ds.map some) (hup : ∀ b ∈ s, ¬ IsLowerDigit b) :
    hexDigits s.length (digitsValueFrom v ds) = s := by
  induction s generalizing ds v with
  | nil => rfl
  | cons b s ih =>
    cases ds with
    | nil => cases hs
    | cons d ds =>
      obtain ⟨hb, htail⟩ := List.cons.inj hs
      obtain ⟨hbup, hsup⟩ := List.forall_mem_cons.1 hup
      have hdigit : digitsValueFrom (16 * v + d) ds / 16 ^ s.length % 16 = d := by
        rw [length_eq_of_map_hexVal htail, digitsValueFrom_div (forall_lt_of_map_hexVal htail), Nat.mul_add_mod,
          Nat.mod_eq_of_lt (hexVal_lt hb)]
      rw [digitsValueFrom_cons, List.length_cons, hexDigits, hdigit, hexDig_of_hexVal hb hbup, ih htail hsup]

/-- A field of upper-case digits is what the encoder writes for its value. -/
theorem hexDigits_of_parseHex (h : parseHex s = some n) (hup : ∀ b ∈ s, ¬ IsLowerDigit b) :
    hexDigits s.length n = s := by
  obtain ⟨ds, hds, rfl⟩ := parseHex_eq_some.1 h
  exact hexDigits_digitsValueFrom hds hup

/-! ### The table of rates -/

/-- No rate stands twice in the table. -/
theorem lookup_baudTable_of_mem : ∀ p ∈ baudTable, baudTable.lookup p.1 = some p.2 := by
  simp [baudTable, List.lookup]

theorem baudCh_eq_some_iff_mem {hz : Word} {x : Byte} : baudCh hz = some x ↔ (hz, x) ∈ baudTable := by
  constructor
  · intro h
    obtain ⟨l, r, hl, -⟩ := List.lookup_eq_some_iff.1 h
    simp [hl]
  · exact lookup_baudTable_of_mem _

/-- Settles O32: a rate and its code are told by their numbers. -/
theorem baudTableIsClosed : Obligations.BaudTableIsClosed := by
  intro hz x
  have hinj : Function.Injective (Prod.map BitVec.toNat BitVec.toNat : Word × Byte → Nat × Nat) :=
    Function.Injective.prodMap (fun _ _ => BitVec.eq_of_toNat_eq) (fun _ _ => BitVec.eq_of_toNat_eq)
  rw [baudCh_eq_some_iff_mem, ← List.mem_map_of_injective hinj]
  rfl

end Sys2Proof
end

section
/-! SUPPORT. What `ENC` writes (R144, R146): the command byte, upper-case digits, and one CR at the end. -/

namespace Sys2Proof

open Machine

variable {b : Byte} {m : Message}

/-! ### The alphabet -/

/-- A byte of `0`..`9` or `A`..`F`: a digit the encoder writes (R142). -/
def IsUpperDigit (b : Byte) : Prop := (0x30 ≤ b.toNat ∧ b.toNat ≤ 0x39) ∨ (0x41 ≤ b.toNat ∧ b.toNat ≤ 0x46)

theorem isUpperDigit_hexDig {v : Nat} (h : v < 16) : IsUpperDigit (hexDig v) := by
  obtain hv | hv := Nat.lt_or_ge v 10
  · exact .inl (by rw [hexDig_toNat_of_lt_ten hv]; omega)
  · exact .inr (by rw [hexDig_toNat_of_ten_le hv h]; omega)

theorem isUpperDigit_of_mem_hexDigits {w v : Nat} (hb : b ∈ hexDigits w v) : IsUpperDigit b := by
  induction w with
  | zero => cases hb
  | succ w ih =>
    obtain rfl | hb := List.mem_cons.1 hb
    · exact isUpperDigit_hexDig (Nat.mod_lt _ (by decide))
    · exact ih hb

theorem isUpperDigit_of_mem_payloadDigits {ps : List Byte} (hb : b ∈ payloadDigits ps) : IsUpperDigit b := by
  induction ps with
  | nil => cases hb
  | cons p ps ih => exact (List.mem_append.1 hb).elim isUpperDigit_of_mem_hexDigits ih

theorem isUpperDigit_lengthDigit {n : Nat} (h : n ≤ 8) : IsUpperDigit (lengthDigit n) :=
  .inl (by rw [lengthDigit_toNat h]; omega)

theorem isUpperDigit_of_mem_payloadField (hb : b ∈ payloadField m) : IsUpperDigit b := by
  unfold payloadField at hb
  split at hb
  · cases hb
  · exact isUpperDigit_of_mem_payloadDigits hb

/-! ### The encoded message -/

theorem length_le_of_validMessage (h : validMessage m = true) : m.length ≤ 8 := by
  simp only [validMessage, Bool.and_eq_true, decide_eq_true_eq] at h
  exact h.1

theorem idDigits_add_three (e : Bool) : idDigits e + 3 = if e then 11 else 6 := by
  cases e <;> rfl

theorem payloadField_length (hl : m.length ≤ 8) :
    (payloadField m).length = if m.remoteRequest then 0 else 2 * m.length := by
  split
  case isTrue hr => rw [payloadField_of_remote hr, List.length_nil]
  case isFalse hr => exact payloadField_length_of_data (Bool.eq_false_iff.2 hr) hl

/-- The digits between an encoded message's command byte and its terminator. -/
def encBody (m : Message) : List Byte :=
  hexDigits (idDigits m.extended) m.id.toNat ++ lengthDigit m.length :: payloadField m

theorem enc_eq_encBody (m : Message) : enc m = commandByte m.extended m.remoteRequest :: encBody m ++ [crByte] := by
  simp [enc_eq, encBody]

theorem isUpperDigit_of_mem_encBody (hl : m.length ≤ 8) (hb : b ∈ encBody m) : IsUpperDigit b := by
  obtain hb | hb := List.mem_append.1 hb
  · exact isUpperDigit_of_mem_hexDigits hb
  obtain rfl | hb := List.mem_cons.1 hb
  · exact isUpperDigit_lengthDigit hl
  · exact isUpperDigit_of_mem_payloadField hb

theorem enc_length_le (hl : m.length ≤ 8) : (enc m).length ≤ 27 := by
  have hlen := enc_length (m := m) rfl
  rw [payloadField_length hl, idDigits_add_three] at hlen
  split at hlen <;> split at hlen <;> omega

/-- Settles O27: the ID field, the length digit and the payload field are digits, and each has its length. -/
theorem encodedLengthAndAlphabet : Obligations.EncodedLengthAndAlphabet := by
  intro m hm
  have hl := length_le_of_validMessage hm
  refine ⟨?_, enc_length_le hl, encBody m, enc_eq_encBody m, fun b hb => isUpperDigit_of_mem_encBody hl hb⟩
  rw [enc_length rfl, payloadField_length hl, idDigits_add_three]

end Sys2Proof
end

section
/-! SUPPORT. What `DEC` accepts (R147 to R156): exactly the bytes that carry a message (`Carries`), and it yields that
message. The round trips and the malformed frames follow from what it is to carry one. -/

namespace Sys2Proof

open Machine

variable {pad : Nat → Byte} {s t : List Byte} {m : Message} {e r : Bool} {ld last : Byte} {idField payload : List Byte}

/-! ### Payload pairs -/

/-- The pair of digits at place `k` of a payload field gives the byte `p` (R113). -/
def PairAt (s : List Byte) (k : Nat) (p : Byte) : Prop :=
  ∃ hi lo, (s[2 * k]?).bind hexVal = some hi ∧ (s[2 * k + 1]?).bind hexVal = some lo ∧ p.toNat = 16 * hi + lo

theorem parseHex_pair_eq_some {a b : Byte} {n : Nat} :
    parseHex [a, b] = some n ↔ ∃ hi lo, hexVal a = some hi ∧ hexVal b = some lo ∧ n = 16 * hi + lo := by
  cases ha : hexVal a <;> cases hb : hexVal b <;> simp [parseHex, parseHexFrom, ha, hb, eq_comm]

theorem pairAt_zero_cons_cons {a b p : Byte} : PairAt (a :: b :: s) 0 p ↔ parseHex [a, b] = some p.toNat :=
  parseHex_pair_eq_some.symm

theorem pairAt_succ_cons_cons {a b p : Byte} {k : Nat} : PairAt (a :: b :: s) (k + 1) p ↔ PairAt s k p := Iff.rfl

theorem parsePairs_succ_eq_some {n : Nat} {a b p : Byte} {ps : List Byte} :
    parsePairs (n + 1) (a :: b :: s) = some (p :: ps) ↔ parseHex [a, b] = some p.toNat ∧ parsePairs n s = some ps := by
  have hlt : ∀ v, parseHex [a, b] = some v → v < 2 ^ 8 := fun v hv => parseHex_lt hv
  simp only [parsePairs, List.take_succ_cons, List.take_zero, List.drop_succ_cons, List.drop_zero]
  cases hv : parseHex [a, b] with
  | none => simp
  | some v =>
    have hbyte : BitVec.ofNat 8 v = p ↔ v = p.toNat := by
      rw [← BitVec.toNat_inj, BitVec.toNat_ofNat, Nat.mod_eq_of_lt (hlt v hv)]
    cases parsePairs n s <;> simp [hbyte]

theorem exists_cons_cons_of_le_length {n : Nat} (h : 2 * (n + 1) ≤ s.length) : ∃ a b t, s = a :: b :: t := by
  match s, h with
  | a :: b :: t, _ => exact ⟨a, b, t, rfl⟩

/-- Payload bytes are read exactly if a pair of digits stands at each place (R113). -/
theorem parsePairs_eq_some {n : Nat} {ps : List Byte} (h : 2 * n ≤ s.length) :
    parsePairs n s = some ps ↔ ps.length = n ∧ ∀ k (hk : k < ps.length), PairAt s k ps[k] := by
  induction n generalizing s ps with
  | zero => cases ps <;> simp [parsePairs]
  | succ n ih =>
    obtain ⟨a, b, s, rfl⟩ := exists_cons_cons_of_le_length h
    cases ps with
    | nil => simpa using fun hp => absurd (parsePairs_length hp) (by simp)
    | cons p ps =>
      rw [parsePairs_succ_eq_some, ih (by simp at h; omega), ← pairAt_zero_cons_cons (s := s)]
      constructor
      · rintro ⟨hp, hlen, hps⟩
        refine ⟨congrArg Nat.succ hlen, fun k hk => ?_⟩
        cases k with
        | zero => exact hp
        | succ k => exact hps k (Nat.lt_of_succ_lt_succ hk)
      · rintro ⟨hlen, hps⟩
        exact ⟨hps 0 (Nat.succ_pos _), Nat.succ.inj hlen, fun k hk => hps (k + 1) (Nat.succ_lt_succ hk)⟩

theorem pairAt_append {k : Nat} {p : Byte} (h : 2 * k + 1 < s.length) : PairAt (s ++ t) k p ↔ PairAt s k p := by
  unfold PairAt
  rw [List.getElem?_append_left h, List.getElem?_append_left (by omega)]

/-! ### The decoder on a frame's fields -/

/-- How many digits the payload field has behind a length byte (R113, R151). -/
def payloadWidth (r : Bool) (ld : Byte) : Nat := if r then 0 else 2 * lengthOf ld

/-- The payload bytes `DEC` reads from the payload field (R147 step 8). -/
def parsePayload (r : Bool) (ld : Byte) (payload : List Byte) : Option (List Byte) :=
  if r then some [] else parsePairs (lengthOf ld) payload

/-- The message `DEC` makes of a frame's fields (R147 step 9). -/
def decodedMessage (pad : Nat → Byte) (e r : Bool) (id : Nat) (ld : Byte) (data : List Byte) : Message where
  id := BitVec.ofNat 32 id
  extended := e
  remoteRequest := r
  length := lengthOf ld
  payload := payloadOf (fun k => data.getD k (pad k))

theorem parsePairs_append {n : Nat} (h : 2 * n ≤ s.length) : parsePairs n (s ++ t) = parsePairs n s := by
  refine Option.ext fun ps => ?_
  rw [parsePairs_eq_some h, parsePairs_eq_some (by simp; omega)]
  refine and_congr_right fun hn => forall₂_congr fun k hk => pairAt_append (by omega)

theorem parsePayload_append (h : payload.length = payloadWidth r ld) :
    parsePayload r ld (payload ++ t) = parsePayload r ld payload := by
  cases r with
  | false => exact parsePairs_append h.ge
  | true => rfl

/-- The bytes of a frame, by its fields (R103 to R106). -/
def frameBytes (e r : Bool) (idField : List Byte) (ld : Byte) (payload : List Byte) (last : Byte) : List Byte :=
  commandByte e r :: (idField ++ ld :: (payload ++ [last]))

theorem frameBytes_length :
    (frameBytes e r idField ld payload last).length = idField.length + payload.length + 3 := by
  simp [frameBytes]
  omega

theorem remainingNeeded_eq : remainingNeeded r (lengthOf ld) = payloadWidth r ld + 1 := by
  cases r <;> rfl

/-- R147: `DEC` on a frame's fields. -/
theorem dec_frameBytes_eq_some (hid : idField.length = idDigits e) :
    dec pad (frameBytes e r idField ld payload last) = some m ↔
      ∃ id data, parseHex idField = some id ∧ lengthOf ld ≤ 8 ∧ payload.length = payloadWidth r ld ∧
        parsePayload r ld payload = some data ∧ decodedMessage pad e r id ld data = m := by
  have hlong : ¬ (frameBytes e r idField ld payload last).length < idDigits e + 3 := by
    rw [frameBytes_length]
    omega
  have hneed : (frameBytes e r idField ld payload last).length - (idDigits e + 2) ≠ remainingNeeded r (lengthOf ld) ↔
      payload.length ≠ payloadWidth r ld := by
    rw [frameBytes_length, remainingNeeded_eq, hid]
    omega
  have htake : (idField ++ ld :: (payload ++ [last])).take (idDigits e) = idField := List.take_left' hid
  have hld : (idField ++ ld :: (payload ++ [last])).getD (idDigits e) 0 = ld := by simp [← hid]
  have hdrop : (idField ++ ld :: (payload ++ [last])).drop (idDigits e + 1) = payload ++ [last] := by simp [← hid]
  rw [frameBytes] at hlong hneed ⊢
  simp only [dec, frameKind_commandByte, htake, hld, hdrop, if_neg hlong, hneed]
  cases parseHex idField with
  | none => simp
  | some id =>
    by_cases h8 : lengthOf ld ≤ 8
    case neg => simp [h8, Nat.not_le.1 h8]
    by_cases hw : payload.length = payloadWidth r ld
    case neg => simp [hw]
    rw [← parsePayload, parsePayload_append hw]
    cases parsePayload r ld payload <;> simp [h8, hw, decodedMessage]

/-- What `DEC` accepts is long enough to have a frame's fields (R147 steps 1 to 4). -/
theorem exists_frameBytes_of_dec_eq_some (h : dec pad s = some m) :
    ∃ e r idField ld payload last, idField.length = idDigits e ∧ s = frameBytes e r idField ld payload last := by
  cases s with
  | nil => cases h
  | cons c rest =>
    simp only [dec] at h
    split at h
    · cases h
    next e r hkind =>
      split at h
      · cases h
      next hlong =>
        have hrest : idDigits e + 2 ≤ rest.length := by
          rw [List.length_cons] at hlong
          omega
        refine ⟨e, r, rest.take (idDigits e), rest.getD (idDigits e) 0, (rest.drop (idDigits e + 1)).dropLast,
          rest.getLastD 0, by simp; omega, ?_⟩
        rw [frameBytes, take_append_getD_cons_dropLast_concat hrest, frameKind_eq_some.1 hkind]

/-! ### The message a frame carries -/

/-- The payload bytes that go over the wire: those below `length` of a data message (R12, R23). -/
def payloadBytes (m : Message) : List Byte := if m.remoteRequest then [] else m.payload.toList.take m.length

theorem payloadBytes_of_remote (hr : m.remoteRequest = true) : payloadBytes m = [] := if_pos hr

theorem payloadBytes_of_data (hr : m.remoteRequest = false) : payloadBytes m = m.payload.toList.take m.length := by
  simp [payloadBytes, hr]

theorem payloadField_eq_payloadDigits (m : Message) : payloadField m = payloadDigits (payloadBytes m) := by
  unfold payloadField payloadBytes
  split <;> rfl

/-- R12: `~` compares the header fields and the bytes that go over the wire. -/
theorem equiv_of_payloadBytes_eq {m' : Message} (hid : m'.id = m.id) (he : m'.extended = m.extended)
    (hr : m'.remoteRequest = m.remoteRequest) (hl : m'.length = m.length) (hp : payloadBytes m' = payloadBytes m) :
    Message.Equiv m' m := by
  refine ⟨hid, he, hr, hl, fun hdata => ?_⟩
  rwa [payloadBytes_of_data hdata, payloadBytes_of_data (hr ▸ hdata), ← hl] at hp

/-- The three fields of a frame hold the message `m`. -/
structure FieldsHold (m : Message) (idField : List Byte) (ld : Byte) (payload : List Byte) : Prop where
  idWidth : idField.length = idDigits m.extended
  id : parseHex idField = some m.id.toNat
  length : lengthOf ld = m.length
  length_le : m.length ≤ 8
  width : payload.length = payloadWidth m.remoteRequest ld
  data : parsePayload m.remoteRequest ld payload = some (payloadBytes m)

theorem parsePairs_take_payload_iff (hl : m.length ≤ 8) (hlen : payload.length = 2 * m.length) :
    parsePairs m.length payload = some (m.payload.toList.take m.length) ↔
      ∀ k (h : k < 8), k < m.length → PairAt payload k m.payload[k] := by
  have hps : (m.payload.toList.take m.length).length = m.length := by simp [hl]
  have hbyte : ∀ k (h : k < 8) (hk : k < (m.payload.toList.take m.length).length),
      (m.payload.toList.take m.length)[k] = m.payload[k] := by simp
  rw [parsePairs_eq_some hlen.ge, and_iff_right hps]
  constructor
  · intro h k h8 hk
    rw [← hbyte k h8 (by omega)]
    exact h k (by omega)
  · intro h k hk
    rw [hbyte k (by omega) hk]
    exact h k (by omega) (by omega)

/-- A payload field holds `m`'s payload: no digit in a remote frame, a pair per byte in a data frame (R113, R151). -/
theorem payload_holds_iff (hlen : lengthOf ld = m.length) (hl : m.length ≤ 8) :
    payload.length = payloadWidth m.remoteRequest ld ∧
        parsePayload m.remoteRequest ld payload = some (payloadBytes m) ↔
      (m.remoteRequest = true → payload = []) ∧
        (m.remoteRequest = false → payload.length = 2 * m.length ∧
          ∀ k (h : k < 8), k < m.length → PairAt payload k m.payload[k]) := by
  cases hr : m.remoteRequest with
  | true => simp [payloadWidth, parsePayload, payloadBytes_of_remote hr]
  | false =>
    simp only [payloadWidth, parsePayload, payloadBytes_of_data hr, hlen, Bool.false_eq_true, if_false, false_implies,
      true_and, forall_const]
    exact and_congr_right fun hpl => parsePairs_take_payload_iff hl hpl

/-- `Carries`, said field by field. -/
theorem carries_iff_fieldsHold : Carries s m ↔ ∃ idField ld payload last,
    s = frameBytes m.extended m.remoteRequest idField ld payload last ∧ FieldsHold m idField ld payload := by
  constructor
  · rintro ⟨idField, payload, ld, last, ids, rfl, hw, hids, hid, hlen, hl, hpayload⟩
    obtain ⟨hwidth, hdata⟩ := (payload_holds_iff hlen.symm hl).2 hpayload
    exact ⟨idField, ld, payload, last, by simp [frameBytes], hw, parseHex_eq_some.2 ⟨ids, hids, hid⟩, hlen.symm, hl,
      hwidth, hdata⟩
  · rintro ⟨idField, ld, payload, last, rfl, hw, hid, hlen, hl, hwidth, hdata⟩
    obtain ⟨ids, hids, hid⟩ := parseHex_eq_some.1 hid
    exact ⟨idField, payload, ld, last, ids, by simp [frameBytes], hw, hids, hid, hlen.symm, hl,
      (payload_holds_iff hlen hl).1 ⟨hwidth, hdata⟩⟩

/-- The bytes a payload is built from stand in its front. -/
theorem payloadOf_getD_take {data : List Byte} (h : data.length ≤ 8) :
    (payloadOf fun k => data.getD k (pad k)).toList.take data.length = data := by
  rw [payloadOf_take _ h]
  refine List.ext_getElem (by simp) fun k hk hk' => ?_
  simp [List.getD_eq_getElem?_getD, List.getElem?_eq_getElem hk']

theorem payloadBytes_decodedMessage {id : Nat} {data : List Byte} (hl : lengthOf ld ≤ 8)
    (h : parsePayload r ld payload = some data) : payloadBytes (decodedMessage pad e r id ld data) = data := by
  cases r with
  | true => exact Option.some.inj h
  | false =>
    have hdata : data.length = lengthOf ld := parsePairs_length h
    rw [payloadBytes_of_data rfl]
    show (payloadOf fun k => data.getD k (pad k)).toList.take (lengthOf ld) = data
    rw [← hdata, payloadOf_getD_take (hdata ▸ hl)]

theorem idDigits_le_eight (e : Bool) : idDigits e ≤ 8 := by
  cases e <;> decide

theorem carries_of_dec_eq_some (h : dec pad s = some m) : Carries s m := by
  obtain ⟨e, r, idField, ld, payload, last, hw, rfl⟩ := exists_frameBytes_of_dec_eq_some h
  obtain ⟨id, data, hid, hl, hpl, hdata, rfl⟩ := (dec_frameBytes_eq_some hw).1 h
  have hlt : id < 2 ^ 32 := calc
    id < 16 ^ idField.length := parseHex_lt hid
    _ ≤ 16 ^ 8 := Nat.pow_le_pow_right (by decide) (hw ▸ idDigits_le_eight e)
  refine carries_iff_fieldsHold.2 ⟨idField, ld, payload, last, rfl, hw, ?_, rfl, hl, hpl, ?_⟩
  · rw [hid]
    exact congrArg some ((BitVec.toNat_ofNat ..).trans (Nat.mod_eq_of_lt hlt)).symm
  · rw [payloadBytes_decodedMessage hl hdata]
    exact hdata

theorem exists_dec_of_carries (h : Carries s m) : ∃ m', dec pad s = some m' ∧ Message.Equiv m' m := by
  obtain ⟨idField, ld, payload, last, rfl, hf⟩ := carries_iff_fieldsHold.1 h
  have hl : lengthOf ld ≤ 8 := hf.length ▸ hf.length_le
  exact ⟨decodedMessage pad m.extended m.remoteRequest m.id.toNat ld (payloadBytes m),
    (dec_frameBytes_eq_some hf.idWidth).2 ⟨_, _, hf.id, hl, hf.width, hf.data, rfl⟩,
    equiv_of_payloadBytes_eq (BitVec.ofNat_toNat _ _ |>.trans (BitVec.setWidth_eq _)) rfl rfl hf.length
      (payloadBytes_decodedMessage hl hf.data)⟩

/-- Settles O30: a frame's fields are read exactly if they hold a message. -/
theorem decodeExactlyTheFrames : Obligations.DecodeExactlyTheFrames :=
  fun _ _ => ⟨fun _ => carries_of_dec_eq_some, fun _ => exists_dec_of_carries⟩

/-! ### Round trips -/

theorem id_toNat_lt_of_validMessage (h : validMessage m = true) : m.id.toNat < 16 ^ idDigits m.extended := by
  simp only [validMessage, Bool.and_eq_true, decide_eq_true_eq] at h
  obtain ⟨-, hid⟩ := h
  cases he : m.extended with
  | false => exact Nat.lt_of_le_of_lt hid (by rw [he]; decide)
  | true => exact Nat.lt_of_le_of_lt hid (by rw [he]; decide)

/-- R144: the fields `ENC` writes hold its message. -/
theorem fieldsHold_of_validMessage (h : validMessage m = true) :
    FieldsHold m (hexDigits (idDigits m.extended) m.id.toNat) (lengthDigit m.length) (payloadField m) := by
  have hl := length_le_of_validMessage h
  have hld := lengthOf_lengthDigit hl
  refine ⟨hexDigits_length _ _, parseHex_hexDigits (id_toNat_lt_of_validMessage h), hld, hl, ?_, ?_⟩
  · rw [payloadField_length hl, payloadWidth, hld]
  · rw [payloadField_eq_payloadDigits]
    cases hr : m.remoteRequest with
    | true => rw [payloadBytes_of_remote hr]; rfl
    | false =>
      have hlen : (payloadBytes m).length = m.length := by simp [payloadBytes_of_data hr, hl]
      have hpairs := parsePairs_payloadDigits (payloadBytes m) []
      rwa [List.append_nil, hlen, ← hld] at hpairs

/-- Settles O28: an encoded message carries the message, and `DEC` yields what is carried. -/
theorem decodeOfEncodedMessage : Obligations.DecodeOfEncodedMessage :=
  fun _ m hm => exists_dec_of_carries <|
    carries_iff_fieldsHold.2 ⟨_, _, _, crByte, enc_eq m, fieldsHold_of_validMessage hm⟩

/-- A payload field of upper-case digits is what the encoder writes for its bytes. -/
theorem payloadDigits_of_parsePairs {n : Nat} {ps : List Byte} (hn : s.length = 2 * n) (h : parsePairs n s = some ps)
    (hup : ∀ b ∈ s, ¬ IsLowerDigit b) : payloadDigits ps = s := by
  induction n generalizing s ps with
  | zero => cases h; exact (List.eq_nil_of_length_eq_zero hn).symm
  | succ n ih =>
    obtain ⟨a, b, s, rfl⟩ := exists_cons_cons_of_le_length hn.ge
    obtain ⟨p, ps, rfl⟩ := List.exists_cons_of_length_eq_add_one (parsePairs_length h)
    obtain ⟨hp, hps⟩ := parsePairs_succ_eq_some.1 h
    obtain ⟨hpair, hrest⟩ := List.forall_mem_append (l₁ := [a, b]).1 hup
    rw [payloadDigits, ih (by simpa [Nat.mul_add] using hn) hps hrest]
    exact congrArg (· ++ s) (hexDigits_of_parseHex hp hpair)

theorem lengthDigit_lengthOf (ld : Byte) : lengthDigit (lengthOf ld) = ld := by
  unfold lengthDigit lengthOf
  bv_omega

theorem payloadField_of_fieldsHold (hf : FieldsHold m idField ld payload) (hup : ∀ b ∈ payload, ¬ IsLowerDigit b) :
    payloadField m = payload := by
  obtain ⟨-, -, -, -, hwidth, hdata⟩ := hf
  rw [payloadField_eq_payloadDigits]
  cases hr : m.remoteRequest with
  | true =>
    rw [hr] at hwidth
    rw [payloadBytes_of_remote hr, List.eq_nil_of_length_eq_zero hwidth]
    rfl
  | false =>
    rw [hr] at hwidth hdata
    exact payloadDigits_of_parsePairs hwidth hdata hup

/-- Settles O29: on upper-case digits each field is what `ENC` writes for the value it holds. -/
theorem encodeOfDecodedMessage : Obligations.EncodeOfDecodedMessage := by
  intro pad s m h _ hcr hup
  obtain ⟨idField, ld, payload, last, rfl, hf⟩ := carries_iff_fieldsHold.1 (carries_of_dec_eq_some h)
  have hlast : last = crByte := by simpa [frameBytes, List.getLast?_cons, crByte] using hcr
  have hid : hexDigits (idDigits m.extended) m.id.toNat = idField :=
    hf.idWidth ▸ hexDigits_of_parseHex hf.id fun b hb => hup b (by simp [frameBytes, hb])
  have hpayload : payloadField m = payload := payloadField_of_fieldsHold hf fun b hb => hup b (by simp [frameBytes, hb])
  rw [enc_eq, frameBytes, hid, hpayload, ← hf.length, lengthDigit_lengthOf, hlast]

/-! ### Malformed frames -/

theorem digit_of_parseHex {n : Nat} {b : Byte} (h : parseHex s = some n) (hb : b ∈ s) : hexVal b ≠ none := by
  intro hn
  rw [parseHex_of_none_mem (hn ▸ List.mem_map_of_mem hb)] at h
  cases h

theorem digit_of_parsePairs {n : Nat} {ps : List Byte} (hn : s.length = 2 * n) (h : parsePairs n s = some ps) {b : Byte}
    (hb : b ∈ s) : hexVal b ≠ none := by
  induction n generalizing s ps with
  | zero => simp [List.eq_nil_of_length_eq_zero hn] at hb
  | succ n ih =>
    obtain ⟨a, c, s, rfl⟩ := exists_cons_cons_of_le_length hn.ge
    obtain ⟨p, ps, rfl⟩ := List.exists_cons_of_length_eq_add_one (parsePairs_length h)
    obtain ⟨hp, hps⟩ := parsePairs_succ_eq_some.1 h
    obtain hb | hb := List.mem_append (s := [a, c]).1 hb
    · exact digit_of_parseHex hp hb
    · exact ih (by simpa [Nat.mul_add] using hn) hps hb

theorem frameBytes_getElem?_id {j : Nat} (h1 : 1 ≤ j) (hj : j ≤ idField.length) :
    (frameBytes e r idField ld payload last)[j]? = idField[j - 1]? := by
  obtain ⟨k, rfl⟩ := Nat.exists_eq_add_of_le' h1
  rw [frameBytes, List.getElem?_cons_succ, List.getElem?_append_left hj, Nat.add_sub_cancel]

theorem frameBytes_getElem?_length (hw : idField.length = idDigits e) :
    (frameBytes e r idField ld payload last)[idDigits e + 1]? = some ld := by
  rw [frameBytes, List.getElem?_cons_succ, ← hw, List.getElem?_append_right le_rfl, Nat.sub_self]
  rfl

theorem frameBytes_getElem?_payload (hw : idField.length = idDigits e) {j : Nat} (h1 : idDigits e + 2 ≤ j)
    (hj : j < idDigits e + 2 + payload.length) :
    (frameBytes e r idField ld payload last)[j]? = payload[j - (idDigits e + 2)]? := by
  obtain ⟨k, rfl⟩ := Nat.exists_eq_add_of_le h1
  have hk : idDigits e + 2 + k = idField.length + (k + 1) + 1 := by omega
  rw [hk, frameBytes, List.getElem?_cons_succ, List.getElem?_append_right (by omega), Nat.add_sub_cancel_left,
    List.getElem?_cons_succ, List.getElem?_append_left (by omega)]
  congr 1
  omega

theorem lengthOf_gt_eight (h : 0x38 < ld.toNat) : 8 < lengthOf ld := by
  unfold lengthOf
  bv_omega

section
variable {c : Byte} (hc : s[0]? = some c) (hk : frameKind c = some (e, r))
include hc hk

/-- What is read from a frame of a known kind holds its fields; so what holds no message is not read. -/
theorem dec_eq_none_of_kind
    (h : ∀ idField ld payload last m, m.extended = e → m.remoteRequest = r →
      s = frameBytes e r idField ld payload last → ¬ FieldsHold m idField ld payload) : dec pad s = none := by
  refine Option.eq_none_iff_forall_ne_some.2 fun m hm => ?_
  obtain ⟨idField, ld, payload, last, rfl, hf⟩ := carries_iff_fieldsHold.1 (carries_of_dec_eq_some hm)
  cases hc
  obtain ⟨rfl, rfl⟩ := Prod.mk.inj (Option.some.inj ((frameKind_commandByte _ _).symm.trans hk))
  exact h idField ld payload last m rfl rfl rfl hf

theorem dec_eq_none_of_short (h : s.length < idDigits e + 3) : dec pad s = none := by
  refine dec_eq_none_of_kind hc hk fun idField ld payload last m he _ hs hf => ?_
  rw [hs, frameBytes_length, hf.idWidth, he] at h
  omega

theorem dec_eq_none_of_idField_not_digit {j : Nat} {b : Byte} (h1 : 1 ≤ j) (hj : j ≤ idDigits e) (hb : s[j]? = some b)
    (hv : hexVal b = none) : dec pad s = none := by
  refine dec_eq_none_of_kind hc hk fun idField ld payload last m he _ hs hf => ?_
  rw [hs, frameBytes_getElem?_id h1 (by rwa [hf.idWidth, he])] at hb
  exact digit_of_parseHex hf.id (List.mem_of_getElem? hb) hv

section
variable (hld : s[idDigits e + 1]? = some ld)
include hld

/-- As `dec_eq_none_of_kind`, for a frame whose length byte is known. -/
theorem dec_eq_none_of_lengthByte
    (h : ∀ idField payload last m, idField.length = idDigits e → lengthOf ld ≤ 8 →
      s = frameBytes e r idField ld payload last → payload.length = payloadWidth r ld →
      parsePayload r ld payload ≠ some (payloadBytes m)) : dec pad s = none := by
  refine dec_eq_none_of_kind hc hk fun idField ld' payload last m he hr hs hf => ?_
  obtain ⟨hw, -, hlen, hl, hpl, hdata⟩ := hf
  rw [he] at hw
  rw [hr] at hpl hdata
  obtain rfl : ld' = ld := by
    rw [hs, frameBytes_getElem?_length hw] at hld
    exact Option.some.inj hld
  exact h idField payload last m hw (hlen ▸ hl) hs hpl hdata

theorem dec_eq_none_of_lengthByte_gt (h8 : 0x38 < ld.toNat) : dec pad s = none :=
  dec_eq_none_of_lengthByte hc hk hld fun _ _ _ _ _ hl _ _ _ => absurd (lengthOf_gt_eight h8) (Nat.not_lt.2 hl)

theorem dec_eq_none_of_wrong_length (h : s.length ≠ idDigits e + 3 + payloadWidth r ld) : dec pad s = none := by
  refine dec_eq_none_of_lengthByte hc hk hld fun idField payload last _ hw _ hs hpl _ => h ?_
  rw [hs, frameBytes_length, hw, hpl]
  omega

theorem dec_eq_none_of_payload_not_digit {j : Nat} {b : Byte} (hr : r = false) (h1 : idDigits e + 2 ≤ j)
    (hj : j < idDigits e + 2 + 2 * lengthOf ld) (hb : s[j]? = some b) (hv : hexVal b = none) : dec pad s = none := by
  subst hr
  refine dec_eq_none_of_lengthByte hc hk hld fun idField payload last _ hw _ hs hpl hdata => ?_
  replace hpl : payload.length = 2 * lengthOf ld := hpl
  rw [hs, frameBytes_getElem?_payload hw h1 (hpl ▸ hj)] at hb
  exact digit_of_parsePairs hpl hdata (List.mem_of_getElem? hb) hv

end

end

theorem idDigits_add_one (e : Bool) : idDigits e + 1 = if e then 9 else 4 := by
  cases e <;> rfl

theorem idDigits_add_two (e : Bool) : idDigits e + 2 = if e then 10 else 5 := by
  cases e <;> rfl

/-- Settles O31: bytes that are read carry a message, and each of these faults denies a field of its frame. -/
theorem malformedFramesFail : Obligations.MalformedFramesFail := by
  refine fun pad s => ⟨fun hs => hs ▸ rfl, fun c hc hk => ?unknown, fun c e r hc hk => ?known⟩
  case unknown =>
    obtain ⟨rest, rfl⟩ := List.head?_eq_some_iff.1 (List.head?_eq_getElem?.trans hc)
    exact dec_of_frameKind_eq_none hk rest
  case known =>
    rw [← idDigits_add_one, ← idDigits_add_two, ← idDigits_add_three]
    exact ⟨dec_eq_none_of_short hc hk, fun j b => dec_eq_none_of_idField_not_digit hc hk, fun ld hld =>
      ⟨dec_eq_none_of_lengthByte_gt hc hk hld, dec_eq_none_of_wrong_length hc hk hld,
        fun j b => dec_eq_none_of_payload_not_digit hc hk hld⟩⟩

end Sys2Proof
end

section
/-! SUPPORT. A frame through the machine: the pass after bytes arrived takes exactly those bytes (R203), one encoded
message pushes one message (R204, R206), and so what one block sends another holds in order. -/

namespace Sys2Proof.Machine

variable {s t : State} {m : Message} {bs : List Byte}

/-! ### A pass over the bytes that arrived -/

@[simp] theorem State.receive_fill (s : State) (bs : List Byte) : (s.receive bs).fill = s.fill := by
  rw [State.receive_frame]
@[simp] theorem State.receive_widx (s : State) (bs : List Byte) : (s.receive bs).widx = s.widx := by
  rw [State.receive_frame]
@[simp] theorem State.receive_ringCap (s : State) (bs : List Byte) : (s.receive bs).ringCap = s.ringCap := by
  rw [State.receive_frame]

/-- R202, R207: a pass takes the new bytes and commits the cursor, also where there is no new byte. -/
theorem State.pass_eq (hc : s.trxCur < s.cfg.trxCap) (hl : s.lastCur < s.cfg.trxCap) :
    s.pass = (s.newBytes.foldl State.pbyte s).commitCursor s.trxCur := by
  by_cases hn : newByteCount s.trxCur s.lastCur s.cfg.trxCap = 0
  · have hnil : s.newBytes = [] := List.eq_nil_of_length_eq_zero (by rw [State.newBytes_length, hn])
    rw [State.pass_of_no_bytes hn, hnil, List.foldl_nil, ← (newByteCount_eq_zero_iff hc hl).1 hn]
    rfl
  · exact State.pass_of_bytes hn

/-- R61, R203: fewer than `M` bytes that arrived behind the cursor are the new bytes. -/
theorem State.newBytes_receive (hc : s.trxCur < s.cfg.trxCap) (hw : s.trx.wf) (hl : s.lastCur = s.trxCur)
    (hb : bs.length < s.cfg.trxCap) : (s.receive bs).newBytes = bs := by
  have hlen : (s.receive bs).newBytes.length = bs.length := by
    rw [State.newBytes_length, State.newByteCount_receive hc hl, Nat.mod_eq_of_lt hb]
  refine List.ext_getElem hlen fun k _ hk => ?_
  simpa [State.newBytes, State.trxRead, hl] using s.receive_trx_read_new hc hw bs k hk (by omega)

theorem State.pass_receive (hi : s.Inv) (hl : s.lastCur = s.trxCur) (hb : bs.length < s.cfg.trxCap) :
    (s.receive bs).pass = (bs.foldl State.pbyte (s.receive bs)).commitCursor (s.receive bs).trxCur := by
  have hr := hi.receive bs
  rw [State.pass_eq hr.trxCur hr.lastCur, State.newBytes_receive hi.trxCur hi.trxForm hl hb]

/-! ### One segment -/

/-- `s` with the bytes stored in the assembly buffer (R63). -/
def State.appendAll (s : State) (bs : List Byte) : State := bs.foldl State.append s

theorem State.appendAll_frame (s : State) (bs : List Byte) :
    s.appendAll bs = { s with asm := (s.appendAll bs).asm, fill := s.fill + bs.length } := by
  induction bs generalizing s with
  | nil => rfl
  | cons b bs ih =>
    rw [List.length_cons, Nat.add_comm bs.length, ← Nat.add_assoc]
    exact ih (s.append b)

@[simp] theorem State.appendAll_cfg (s : State) (bs : List Byte) : (s.appendAll bs).cfg = s.cfg := by
  rw [State.appendAll_frame]
@[simp] theorem State.appendAll_fill (s : State) (bs : List Byte) : (s.appendAll bs).fill = s.fill + bs.length := by
  rw [State.appendAll_frame]
@[simp] theorem State.appendAll_slots (s : State) (bs : List Byte) : (s.appendAll bs).slots = s.slots := by
  rw [State.appendAll_frame]
@[simp] theorem State.appendAll_widx (s : State) (bs : List Byte) : (s.appendAll bs).widx = s.widx := by
  rw [State.appendAll_frame]
@[simp] theorem State.appendAll_ringCap (s : State) (bs : List Byte) : (s.appendAll bs).ringCap = s.ringCap := by
  rw [State.appendAll_frame]

theorem State.appendAll_concat (s : State) (bs : List Byte) (b : Byte) :
    s.appendAll (bs ++ [b]) = (s.appendAll bs).append b := List.foldl_concat ..

theorem State.segment_appendAll (h : s.asm.wf) (bs : List Byte) : (s.appendAll bs).segment = s.segment ++ bs := by
  induction bs generalizing s with
  | nil => simp [State.appendAll]
  | cons b bs ih =>
    have htail := ih (State.append_asm_wf h b)
    rwa [State.segment_append h, List.append_assoc] at htail

/-- R204 step a: bytes without CR for which there is room are stored. -/
theorem State.foldl_pbyte_of_noCr (hcr : crByte ∉ bs) (hroom : s.fill + bs.length ≤ s.cfg.asmCap - 1) :
    bs.foldl State.pbyte s = s.appendAll bs := by
  induction bs generalizing s with
  | nil => rfl
  | cons b bs ih =>
    rw [List.length_cons] at hroom
    obtain ⟨hb, hbs⟩ := not_or.1 (mt List.mem_cons.2 hcr)
    rw [List.foldl_cons, State.pbyte_of_ne s (Ne.symm hb), State.store_of_room (by omega)]
    exact ih hbs (by simpa using (by omega : s.fill + 1 + bs.length ≤ s.cfg.asmCap - 1))

/-- R204, R206: a segment with its CR for which there is room is stored, and ended. -/
theorem State.foldl_pbyte_concat_cr (hcr : crByte ∉ bs) (hroom : s.fill + bs.length < s.cfg.asmCap - 1) :
    (bs ++ [crByte]).foldl State.pbyte s = (s.appendAll (bs ++ [crByte])).endSegment := by
  rw [List.foldl_concat, State.foldl_pbyte_of_noCr hcr hroom.le, State.pbyte_cr,
    State.store_of_room (by simpa using hroom), ← State.appendAll_concat]

theorem State.endSegment_of_segment (hseg : s.segment = bs) (h : dec s.pad bs = some m) :
    s.endSegment = ((s.push m).drawn).emptyAsm := State.endSegment_of_some (hseg.symm ▸ h)

theorem crByte_not_isUpperDigit : ¬ IsUpperDigit crByte := by
  unfold IsUpperDigit
  decide

theorem crByte_ne_commandByte (e r : Bool) : crByte ≠ commandByte e r := by
  cases e <;> cases r <;> decide

/-- R146: no CR stands in an encoded message before its end. -/
theorem crByte_notMem_command_encBody (hl : m.length ≤ 8) :
    crByte ∉ commandByte m.extended m.remoteRequest :: encBody m := by
  rw [List.mem_cons, not_or]
  exact ⟨crByte_ne_commandByte _ _, fun h => crByte_not_isUpperDigit (isUpperDigit_of_mem_encBody hl h)⟩

/-- An encoded message, taken byte by byte into an empty buffer, pushes one message, which is `~` it. -/
theorem State.foldl_pbyte_enc (hi : s.Inv) (hf : s.fill = 0) (hm : validMessage m = true) :
    ∃ m', Message.Equiv m' m ∧
      (enc m).foldl State.pbyte s = (((s.appendAll (enc m)).push m').drawn).emptyAsm := by
  have hl := length_le_of_validMessage hm
  have hseg : (s.appendAll (enc m)).segment = enc m := by
    rw [State.segment_appendAll hi.asmForm, List.eq_nil_of_length_eq_zero (s.segment_length.trans hf), List.nil_append]
  obtain ⟨m', hdec, hequiv⟩ := decodeOfEncodedMessage (s.appendAll (enc m)).pad m hm
  refine ⟨m', hequiv, ?_⟩
  have hroom : s.fill + (commandByte m.extended m.remoteRequest :: encBody m).length < s.cfg.asmCap - 1 := by
    have hlen := enc_length_le hl
    have hcap := hi.cfg.asmCap
    rw [enc_eq_encBody, List.length_append, List.length_singleton] at hlen
    omega
  have hfold := State.foldl_pbyte_concat_cr (crByte_notMem_command_encBody hl) hroom
  rw [← enc_eq_encBody] at hfold
  exact hfold.trans (State.endSegment_of_segment hseg hdec)

/-! ### Several messages, one after the other -/

/-- The messages were received: the parser waits for a new segment, and the ring holds a message `~` each of them, from
where the write cursor stood on. -/
structure Delivered (s : State) (ms : List Message) (u : State) : Prop where
  fill : u.fill = 0
  widx : u.widx = (s.widx + ms.length) % s.ringCap
  slots : ∀ j m, ms[j]? = some m →
    ∃ m', u.slots.read ((s.widx + j) % s.ringCap) = some m' ∧ Message.Equiv m' m

/-- While no slot is written twice, one more message is received behind the others. -/
theorem Delivered.concat {u v : State} {ms : List Message} {m' : Message} (h : Delivered s ms u)
    (hm : Message.Equiv m' m) (hn : ms.length < s.ringCap) (hfill : v.fill = 0) (hwidx : v.widx = (u.widx + 1) % s.ringCap)
    (hslots : v.slots = u.slots.write u.widx m') : Delivered s (ms ++ [m]) v := by
  refine ⟨hfill, ?_, fun j p hj => ?_⟩
  · rw [hwidx, h.widx, Nat.mod_add_mod, List.length_append, List.length_singleton, Nat.add_assoc]
  · rw [hslots, h.widx]
    obtain hlt | hge := Nat.lt_or_ge j ms.length
    · rw [List.getElem?_append_left hlt] at hj
      rw [Slots.read_write_other _ (add_mod_ne_add_mod hlt (by omega))]
      exact h.slots j p hj
    · rw [List.getElem?_append_right hge, List.getElem?_singleton] at hj
      split at hj
      case isTrue h0 =>
        cases hj
        obtain rfl : j = ms.length := by omega
        exact ⟨m', Slots.read_write_same _, hm⟩
      case isFalse => cases hj

theorem delivered_foldl_pbyte (hi : s.Inv) (ha : s.trAcq = true) (hf : s.fill = 0) {ms : List Message}
    (hms : ∀ m ∈ ms, validMessage m = true) (hn : ms.length ≤ s.ringCap) :
    Delivered s ms ((ms.flatMap enc).foldl State.pbyte s) := by
  induction ms using List.reverseRecOn with
  | nil => exact ⟨hf, (Nat.mod_eq_of_lt (hi.ring ha).2).symm, by simp⟩
  | append_singleton ms m ih =>
    rw [List.length_append, List.length_singleton] at hn
    obtain ⟨hms, hm⟩ := List.forall_mem_append.1 hms
    have hu := ih hms (by omega)
    obtain ⟨m', hequiv, hstep⟩ :=
      State.foldl_pbyte_enc (hi.foldl_pbyte ha (ms.flatMap enc)) hu.fill (hm m List.mem_cons_self)
    rw [List.flatMap_append, List.flatMap_singleton, List.foldl_append, hstep]
    exact hu.concat hequiv hn rfl (by simp) (by simp)

theorem sendAll_of_open {ms : List Message} (hms : ∀ m ∈ ms, validMessage m = true) (ha : s.trAcq = true)
    (ho : s.busOpen = true) : ∃ t, sendAll ms s = .next t ∧ t.txlog = s.txlog ++ ms.flatMap enc := by
  induction ms generalizing s with
  | nil => exact ⟨s, rfl, by simp⟩
  | cons m ms ih =>
    obtain ⟨hm, hms⟩ := List.forall_mem_cons.1 hms
    obtain ⟨t, hsend, hlog⟩ := ih (s := (s.tx (enc m)).finish none) hms ha ho
    refine ⟨t, ?_, by simp [hlog]⟩
    rw [sendAll, exec_send_of_open ha ho hm]
    exact hsend

/-- Settles O54: the bytes SEND emits are, once received, the new bytes of one pass, which takes them frame by frame. -/
theorem loopbackDeliversMessages : Obligations.LoopbackDeliversMessages := by
  intro x y ms hms hxa hxo hy hcaught hbytes hn
  obtain ⟨ha, hl, hf⟩ := hcaught
  obtain ⟨x', hsend, hlog⟩ := sendAll_of_open hms hxa hxo
  have hd : Delivered (y.receive (ms.flatMap enc)) ms _ :=
    delivered_foldl_pbyte (hy.receive (ms.flatMap enc)) (by simpa using ha) (by simpa using hf) hms (by simpa using hn)
  have hpass := State.pass_receive hy hl hbytes
  refine ⟨x', _, hsend, hlog, exec_rxcur (by simpa using ha), ?_, ?_⟩
  · simpa [hpass] using hd.widx
  · simpa [hpass] using hd.slots

end Sys2Proof.Machine
end

section
/-! SUPPORT. The message ring (41_ring.md): one push, any number of them, what the host's consumer arithmetic then finds, and
the read of one slot. -/

namespace Sys2Proof.Machine

variable {s : State} {m : Message}

/-! ### One push -/

theorem State.slotRead_of_read {j : Nat} (h : s.slots.read j = some m) : s.slotRead j = m := by
  simp [State.slotRead, h]

theorem State.slotRead_push_same (s : State) (m : Message) : (s.push m).slotRead s.widx = m :=
  State.slotRead_of_read (Slots.read_write_same m)

theorem State.slotRead_push_other {j : Nat} (h : j ≠ s.widx) (m : Message) : (s.push m).slotRead j = s.slotRead j := by
  simp [State.slotRead, Slots.read_write_other m h]

/-- Settles O36: the whole slot is written, and `widx` wraps at `N - 1` only. -/
theorem pushWritesOneSlot : Obligations.PushWritesOneSlot := by
  intro s m _
  refine ⟨rfl, s.slotRead_push_same m, fun j hj => State.slotRead_push_other hj m, fun hlast => ?wraps,
    fun hroom => ?advances⟩
  case wraps => rw [State.push_widx, hlast, Nat.mod_self]
  case advances => rw [State.push_widx, Nat.mod_eq_of_lt hroom]

/-! ### Any number of pushes -/

@[simp] theorem State.foldl_push_ringCap (s : State) (ms : List Message) :
    (ms.foldl State.push s).ringCap = s.ringCap := by
  induction ms generalizing s with
  | nil => rfl
  | cons m ms ih => exact ih (s.push m)

theorem State.foldl_push_widx (h : s.widx < s.ringCap) (ms : List Message) :
    (ms.foldl State.push s).widx = (s.widx + ms.length) % s.ringCap := by
  induction ms using List.reverseRecOn with
  | nil => exact (Nat.mod_eq_of_lt h).symm
  | append_singleton ms m ih =>
    rw [List.foldl_concat, State.push_widx, State.foldl_push_ringCap, ih, Nat.mod_add_mod, List.length_append,
      List.length_singleton, Nat.add_assoc]

/-- The message pushed last is written behind those before it. -/
theorem State.foldl_push_concat_slots (h : s.widx < s.ringCap) (ms : List Message) (m : Message) :
    ((ms ++ [m]).foldl State.push s).slots =
      (ms.foldl State.push s).slots.write ((s.widx + ms.length) % s.ringCap) m := by
  rw [List.foldl_concat, State.push_slots, State.foldl_push_widx h]

theorem State.foldl_push_read_other (h : s.widx < s.ringCap) (ms : List Message) {j : Nat}
    (hj : ∀ k, k < ms.length → j ≠ (s.widx + k) % s.ringCap) :
    (ms.foldl State.push s).slots.read j = s.slots.read j := by
  induction ms using List.reverseRecOn with
  | nil => rfl
  | append_singleton ms m ih =>
    simp only [List.length_append, List.length_singleton] at hj
    rw [State.foldl_push_concat_slots h, Slots.read_write_other m (hj _ (Nat.lt_succ_self _))]
    exact ih fun k hk => hj k (Nat.lt_succ_of_lt hk)

/-- R188: of the messages pushed into one slot the last one stays, so the last `N` are all there. -/
theorem State.foldl_push_read_new (h : s.widx < s.ringCap) (ms : List Message) (k : Nat) (hk : k < ms.length)
    (hlast : ms.length ≤ k + s.ringCap) :
    (ms.foldl State.push s).slots.read ((s.widx + k) % s.ringCap) = some ms[k] := by
  induction ms using List.reverseRecOn with
  | nil => cases hk
  | append_singleton ms m ih =>
    simp only [List.length_append, List.length_singleton] at hk hlast
    rw [State.foldl_push_concat_slots h]
    obtain hlt | rfl := Nat.lt_succ_iff_lt_or_eq.1 hk
    · rw [Slots.read_write_other m (add_mod_ne_add_mod hlt (by omega)), ih hlt (by omega), List.getElem_append_left hlt]
    · rw [Slots.read_write_same m, List.getElem_concat_length rfl]

/-! ### The most recent messages -/

/-- R187: after `p` pushes the `k`-th newest message is the one pushed `k` before the end. -/
theorem recentSlot_advance {w p k n : Nat} (hkn : k ≤ n) (hkp : k ≤ p) :
    recentSlot ((w + p) % n) k n = (w + (p - k)) % n := by
  have hsum : w + p + (n - k) = w + (p - k) + n := by omega
  rw [recentSlot, Nat.add_sub_assoc hkn, Nat.mod_add_mod, hsum, Nat.add_mod_right]

theorem recentSlot_injective {w n k k' : Nat} (hk : 1 ≤ k) (hkn : k ≤ n) (hk' : 1 ≤ k') (hkn' : k' ≤ n)
    (h : recentSlot w k n = recentSlot w k' n) : k = k' := by
  rw [recentSlot, recentSlot, Nat.add_sub_assoc hkn, Nat.add_sub_assoc hkn'] at h
  have hmod : n - k ≡ n - k' [MOD n] := Nat.ModEq.add_left_cancel' w h
  have hsub : n - k = n - k' := hmod.eq_of_lt_of_lt (by omega) (by omega)
  omega

/-- Every slot written by `p` pushes holds one of the last `min(N, p)` messages. -/
theorem exists_recentSlot_eq {w p i n : Nat} (hn : 0 < n) (hi : i < p) :
    ∃ k, 1 ≤ k ∧ k ≤ n ∧ k ≤ p ∧ (w + i) % n = recentSlot ((w + p) % n) k n := by
  -- the newest message in the `i`-th one's slot was pushed a whole number of turns after it
  have hdiv := Nat.mod_add_div (p - i - 1) n
  have hlt := Nat.mod_lt (p - i - 1) hn
  refine ⟨(p - i - 1) % n + 1, by omega, by omega, by omega, ?_⟩
  have hturns : w + (p - ((p - i - 1) % n + 1)) = w + i + n * ((p - i - 1) / n) := by omega
  rw [recentSlot_advance (by omega) (by omega), hturns, Nat.add_mul_mod_self_left]

/-- Settles O37: the last `N` messages are in their slots, and no slot is written without one of them. -/
theorem overwriteKeepsTheLastN : Obligations.OverwriteKeepsTheLastN := by
  intro s ms h
  rw [State.foldl_push_widx h]
  refine ⟨fun k hk hkn hkp => ?held, fun k k' => recentSlot_injective, fun j hj => ?untouched⟩
  case held =>
    rw [recentSlot_advance hkn hkp, State.foldl_push_read_new h ms (ms.length - k) (by omega) (by omega),
      List.getElem?_eq_getElem]
  case untouched =>
    refine State.foldl_push_read_other h ms fun i hi hji => ?_
    obtain ⟨k, hk, hkn, hkp, hslot⟩ := exists_recentSlot_eq (w := s.widx) (Nat.zero_lt_of_lt h) hi
    exact hj k hk hkn hkp (hji.trans hslot)

/-! ### The consumer -/

/-- R186: the delta of a cursor that is `p` pushes ahead is `p` modulo `N`. It is the count of R203, on the ring's slots. -/
theorem consumerDelta_advance {w n : Nat} (h : w < n) (p : Nat) : consumerDelta ((w + p) % n) w n = p % n :=
  newByteCount_advance h p

/-- R191: whole turns of the ring are invisible, so the slots consumed hold what was pushed after them. -/
theorem State.foldl_push_read_consumed (h : s.widx < s.ringCap) (ms : List Message) {j : Nat}
    (hj : j < ms.length % s.ringCap) :
    (ms.foldl State.push s).slots.read ((s.widx + j) % s.ringCap) =
      ms[ms.length - ms.length % s.ringCap + j]? := by
  have hdiv := Nat.mod_add_div ms.length s.ringCap
  have hlt := Nat.mod_lt ms.length (Nat.zero_lt_of_lt h)
  have hturns : s.widx + (ms.length - ms.length % s.ringCap + j) = s.widx + j + s.ringCap * (ms.length / s.ringCap) := by
    omega
  have hread := State.foldl_push_read_new h ms (ms.length - ms.length % s.ringCap + j) (by omega) (by omega)
  rwa [hturns, Nat.add_mul_mod_self_left, ← List.getElem?_eq_getElem] at hread

/-- Settles O38: the consumer's slots are the last `P mod N` that were written, in the order of writing. -/
theorem consumerReadsNewestMessages : Obligations.ConsumerReadsNewestMessages := by
  intro s ms h
  rw [State.foldl_push_widx h, consumedSlots, consumerDelta_advance h]
  have hle := Nat.mod_le ms.length s.ringCap
  refine ⟨rfl, List.ext_getElem (by simp; omega) fun j hj _ => ?_⟩
  rw [List.length_map, List.length_map, List.length_range] at hj
  have hin : ms.length - ms.length % s.ringCap + j < ms.length := by omega
  have hread := State.foldl_push_read_consumed h ms hj
  rw [List.getElem?_eq_getElem hin] at hread
  simpa using hread

/-! ### RDSLOT -/

theorem exec_rdslot_of_inView (ha : s.trAcq = true) {i : Word} (hi : i.toNat < s.ringCap) :
    exec (.rdslot i) s = .next (s.finish (some (.message (s.slotRead i.toNat)))) := by
  simp [exec, execRdslot, withFacet, State.inView, ha, hi]

theorem exec_rdslot_of_outside (ha : s.trAcq = true) {i : Word} (hi : s.ringCap ≤ i.toNat) :
    exec (.rdslot i) s = .refused .slotOutsideView := by
  simp [exec, execRdslot, withFacet, State.inView, ha, hi]

/-- Settles O10: inside the view the reply is the slot, which is the written message where there is one. -/
theorem readSlotReadsTheView : Obligations.ReadSlotReadsTheView := by
  intro s i ha
  refine ⟨exec_rdslot_of_inView ha, fun m hi hm => ?written, exec_rdslot_of_outside ha⟩
  case written =>
    rw [exec_rdslot_of_inView ha hi, State.slotRead_of_read hm]
    rfl

end Sys2Proof.Machine
end

section
/-! SUPPORT. The life of the ring and the parser (R25, R181): ACQTR creates them with their capacity, no instruction changes
the capacity of an acquired ring, and before ACQTR nothing reads either of them. -/

namespace Sys2Proof.Machine

variable {s t : State} {i : Instr}

/-! ### ACQTR, and the capacity it sets -/

theorem exec_acqtr_of_not_held (ha : s.trAcq = false) (req : Word) :
    exec (.acqtr req) s =
      if s.tooLarge req then .refused .ringTooLarge
      else .next ((s.createTransceiver (ringCapacity req)).finish none) := by
  simp [exec, execAcqtr, ha]

theorem acqtr_sets_ringCap {req : Word} (ha : s.trAcq = false) (h : exec (.acqtr req) s = .next t) :
    t.ringCap = ringCapacity req := by
  obtain ⟨hb, -⟩ | ⟨-, -, rfl⟩ := exec_acqtr_next h
  · simp [ha] at hb
  · rfl

/-- R181: the capacity of an acquired ring is fixed. -/
theorem Completes.ringCap_eq (hc : Completes i s t) (ha : s.trAcq = true) : t.ringCap = s.ringCap := by
  cases hc with
  | acqtr _ _ hb => simp [ha] at hb
  | _ => simp

/-! ### Before ACQTR -/

/-- The state with other contents of the ring and the parser (R24 to R29). -/
def State.withRingAndParser (n w f l : Nat) (sl : Slots) (a : Memory) (s : State) : State :=
  { s with ringCap := n, slots := sl, widx := w, asm := a, fill := f, lastCur := l }

section
variable (n w f l : Nat) (sl : Slots) (a : Memory)

/-- Bytes arrive in the transport's ring whatever the parser holds (R62). -/
theorem State.receive_withRingAndParser (s : State) (bs : List Byte) :
    (s.withRingAndParser n w f l sl a).receive bs = (s.receive bs).withRingAndParser n w f l sl a := by
  induction bs generalizing s with
  | nil => rfl
  | cons b bs ih => exact ih (s.produce b)

/-- R25: an operation that needs the ring or the parser is refused before ACQTR, and the others read nothing of them. -/
theorem exec_withRingAndParser (ha : s.trAcq = false) (hi : ∀ req, i ≠ .acqtr req) :
    exec i (s.withRingAndParser n w f l sl a) = mapNext (·.withRingAndParser n w f l sl a) (exec i s) := by
  cases i with
  | stdData | stdRemote | extData | extRemote | baudFrame | openFrame =>
    rw [exec_of_isWireFrame rfl, exec_of_isWireFrame rfl, State.receive_withRingAndParser]
    rfl
  | acqtr req => exact absurd rfl (hi req)
  | baud | send | rxbuf | rxcur | rdslot =>
    simp only [exec, execBaud, execSend, execRxbuf, execRxcur, execRdslot, mapNext_withFacet]
    exact (withFacet_of_not_holds (f := .transceiver) ha _).trans (withFacet_of_not_holds (f := .transceiver) ha _).symm
  | setbaud hz =>
    simp only [exec, execSetbaud, mapNext_withFacet, mapNext_ite]
    cases baudCh hz <;> rfl
  | acqbm | setfilt | regboff | buson =>
    simp only [exec, execAcqbm, execSetfilt, execRegboff, execBuson, mapNext_withFacet, mapNext_ite]
    rfl

/-- R25, R232: ACQTR gives every field of the ring and the parser its value, but for `asm`, which is stale. -/
theorem exec_acqtr_withRingAndParser (ha : s.trAcq = false) (req : Word) :
    exec (.acqtr req) (s.withRingAndParser n w f l sl a) =
      mapNext (fun t => { t with asm := a }) (exec (.acqtr req) s) := by
  rw [exec_acqtr_of_not_held ha, exec_acqtr_of_not_held (s := s.withRingAndParser n w f l sl a) ha, mapNext_ite]
  rfl

end

/-- Settles O3: ACQTR sets the capacity, no instruction changes it afterwards, and none depends on what stood there before. -/
theorem ringAndParserLiveFromAcquisition : Obligations.RingAndParserLiveFromAcquisition := by
  refine ⟨fun s t req ha h => acqtr_sets_ringCap ha h, fun s req ha hreq => ?tooLarge, fun i s t ha h => ?fixed,
    fun i s n w f l sl a ha hi => exec_withRingAndParser n w f l sl a ha hi,
    fun req s n w f l sl a ha => exec_acqtr_withRingAndParser n w f l sl a ha req⟩
  case tooLarge => exact (exec_acqtr_of_not_held ha req).trans (if_pos (decide_eq_true hreq))
  case fixed =>
    have hc := completes_of_exec h
    obtain ⟨-, -, htr⟩ := hc.flagsKept
    exact ⟨htr ha, hc.ringCap_eq ha⟩

end Sys2Proof.Machine
end

section
/-! SUPPORT. The parser's byte step (42_parser.md sections 2, 3 and 5): what it stores, what a CR ends, the three control
states, and the segments that no CR turns into a message. -/

namespace Sys2Proof.Machine

variable {s : State} {m : Message} {bs : List Byte}

/-! ### Storing a byte -/

/-- R204 step a: the byte step before the test for CR writes the assembly buffer only. -/
theorem State.store_eq (s : State) (b : Byte) :
    s.store b = { s with asm := (s.store b).asm, fill := (s.store b).fill } := by
  unfold State.store
  split <;> rfl

@[simp] theorem State.store_cfg (s : State) (b : Byte) : (s.store b).cfg = s.cfg := by rw [State.store_eq]
@[simp] theorem State.store_ringCap (s : State) (b : Byte) : (s.store b).ringCap = s.ringCap := by rw [State.store_eq]
@[simp] theorem State.store_slots (s : State) (b : Byte) : (s.store b).slots = s.slots := by rw [State.store_eq]
@[simp] theorem State.store_widx (s : State) (b : Byte) : (s.store b).widx = s.widx := by rw [State.store_eq]
@[simp] theorem State.store_draws (s : State) (b : Byte) : (s.store b).draws = s.draws := by rw [State.store_eq]

theorem State.store_fill_le (hf : s.fill ≤ s.cfg.asmCap - 1) (b : Byte) : (s.store b).fill ≤ s.cfg.asmCap - 1 := by
  by_cases hroom : s.fill < s.cfg.asmCap - 1
  · rw [State.store_of_room hroom]
    exact hroom
  · rwa [State.store_of_full hroom]

theorem State.store_asm_wf (h : s.asm.wf) (b : Byte) : (s.store b).asm.wf := by
  by_cases hroom : s.fill < s.cfg.asmCap - 1
  · rw [State.store_of_room hroom]
    exact State.append_asm_wf h b
  · rwa [State.store_of_full hroom]

/-- R205: `asm[A-1]`, and what lies above it, is never written. -/
theorem State.store_asm_read (s : State) (b : Byte) {j : Nat} (hj : s.cfg.asmCap - 1 ≤ j) :
    (s.store b).asm.read j = s.asm.read j := by
  by_cases hroom : s.fill < s.cfg.asmCap - 1
  · rw [State.store_of_room hroom]
    exact Memory.read_write_other b (by omega)
  · rw [State.store_of_full hroom]

/-- R205: the segment with the byte behind it, cut at the `A - 1` bytes there is room for. -/
theorem State.segment_store (h : s.asm.wf) (hf : s.fill ≤ s.cfg.asmCap - 1) (b : Byte) :
    (s.store b).segment = (s.segment ++ [b]).take (s.cfg.asmCap - 1) := by
  by_cases hroom : s.fill < s.cfg.asmCap - 1
  · rw [State.store_of_room hroom, State.segment_append h, List.take_of_length_le (by simpa using hroom)]
  · rw [State.store_of_full hroom, List.take_left' (by rw [State.segment_length]; omega)]

/-! ### The end of a segment -/

@[simp] theorem State.endSegment_fill (s : State) : s.endSegment.fill = 0 := by
  unfold State.endSegment
  split <;> rfl

@[simp] theorem State.endSegment_asm (s : State) : s.endSegment.asm = s.asm := by
  unfold State.endSegment
  split <;> rfl

@[simp] theorem State.pbyte_asm (s : State) (b : Byte) : (s.pbyte b).asm = (s.store b).asm := by
  unfold State.pbyte
  split
  · exact State.endSegment_asm _
  · rfl

@[simp] theorem State.pbyte_cfg (s : State) (b : Byte) : (s.pbyte b).cfg = s.cfg := by rw [s.pbyte_frame b]

@[simp] theorem State.pbyte_cr_fill (s : State) : (s.pbyte crByte).fill = 0 := by
  rw [State.pbyte_cr, State.endSegment_fill]

theorem State.pbyte_fill_le (hf : s.fill ≤ s.cfg.asmCap - 1) (b : Byte) : (s.pbyte b).fill ≤ s.cfg.asmCap - 1 := by
  by_cases hb : b = crByte
  · rw [hb, State.pbyte_cr_fill]
    exact Nat.zero_le _
  · rw [State.pbyte_of_ne s hb]
    exact State.store_fill_le hf b

/-- Settles O43: the room decides between storing at `fill` and changing nothing. -/
theorem appendUnlessFull : Obligations.AppendUnlessFull := by
  intro s b hw _ hf
  refine ⟨fun hroom => ?stored, fun hfull => State.store_of_full (by omega) b, ?top, State.pbyte_fill_le hf b⟩
  case stored =>
    rw [State.store_of_room hroom]
    exact ⟨rfl, State.segment_append hw b, fun j hj => Memory.read_write_other b hj⟩
  case top =>
    rw [State.pbyte_asm]
    exact State.store_asm_read s b le_rfl

/-- The terminator as the statements write it. -/
theorem cr_eq_crByte : (0x0D : Byte) = crByte := rfl

/-- Settles O44: the segment given to `DEC` is the stored one, and the ring is untouched until then. -/
theorem terminatorEndsSegment : Obligations.TerminatorEndsSegment := by
  intro s hw
  rw [cr_eq_crByte]
  refine ⟨fun b hb => State.pbyte_of_ne s hb, s.pbyte_cr_fill, s.pbyte_asm crByte, fun seg hseg => ?_⟩
  have hstored : (s.store crByte).segment = seg := by
    rw [hseg]
    split
    · next hroom => rw [State.store_of_room hroom, State.segment_append hw]
    · next hfull => rw [State.store_of_full hfull]
  rw [← hstored, State.pbyte_cr]
  refine ⟨fun m hm => ?pushed, fun hnone => ?dropped⟩
  case pushed =>
    rw [State.endSegment_of_some hm]
    simp
  case dropped =>
    rw [State.endSegment_of_none hnone]
    simp

/-! ### The three control states (R208) -/

theorem State.parserMode_eq_idle_iff : s.parserMode = .idle ↔ s.fill = 0 := by
  unfold State.parserMode
  split_ifs <;> simp [*]

theorem State.parserMode_eq_accum_iff : s.parserMode = .accum ↔ s.fill ≠ 0 ∧ s.fill < s.cfg.asmCap - 1 := by
  unfold State.parserMode
  split_ifs <;> simp [*]

theorem State.parserMode_eq_full_iff : s.parserMode = .full ↔ s.fill ≠ 0 ∧ ¬ s.fill < s.cfg.asmCap - 1 := by
  unfold State.parserMode
  split_ifs <;> simp [*]

/-- The control state a stored byte leads to. -/
theorem State.parserMode_append (hroom : s.fill < s.cfg.asmCap - 1) (b : Byte) :
    (s.append b).parserMode = if s.fill + 1 = s.cfg.asmCap - 1 then .full else .accum := by
  show (if s.fill + 1 < s.cfg.asmCap - 1 then ParserMode.accum else .full) = _
  by_cases hlast : s.fill + 1 = s.cfg.asmCap - 1
  · rw [if_pos hlast, if_neg (by omega)]
  · rw [if_neg hlast, if_pos (by omega)]

theorem State.segment_of_fill_eq_zero (hf : s.fill = 0) : s.segment = [] :=
  List.eq_nil_of_length_eq_zero (s.segment_length.trans hf)

/-- A CR alone is no frame. -/
theorem State.pbyte_cr_of_empty (hw : s.asm.wf) (hf : s.fill = 0) (hcap : 3 ≤ s.cfg.asmCap) :
    s.pbyte crByte = (s.append crByte).emptyAsm := by
  have hseg : (s.append crByte).segment = [crByte] := by
    rw [State.segment_append hw, State.segment_of_fill_eq_zero hf, List.nil_append]
  rw [State.pbyte_cr, State.store_of_room (by omega)]
  exact State.endSegment_of_none (hseg ▸ dec_of_frameKind_eq_none (by decide) [])

/-- Settles O45: the control state is told by `fill`, which a stored byte raises by one and a CR sets to 0. -/
theorem parserStateMachine : Obligations.ParserStateMachine := by
  intro s b hw hcap hf
  rw [cr_eq_crByte, State.parserMode_eq_idle_iff (s := s), State.parserMode_eq_accum_iff (s := s),
    State.parserMode_eq_full_iff (s := s)]
  refine ⟨fun hb hidle => ?idleOther, fun hb => ?cr, fun hb hidle => ?idleCr, fun hb ⟨_, hroom⟩ => ?accumOther,
    fun hb ⟨_, hfull⟩ => ?fullOther, fun hb ⟨_, hfull⟩ => ?fullCr⟩
  case idleOther =>
    have hroom : s.fill < s.cfg.asmCap - 1 := by omega
    rw [State.pbyte_of_ne s hb, State.store_of_room hroom, State.parserMode_append hroom, if_neg (by omega)]
    exact ⟨rfl, hidle ▸ Memory.read_write_same b hw⟩
  case cr => rw [hb, State.parserMode_eq_idle_iff, State.pbyte_cr_fill]
  case idleCr =>
    rw [hb, State.pbyte_cr_of_empty hw hidle hcap]
    exact ⟨rfl, rfl⟩
  case accumOther =>
    rw [State.pbyte_of_ne s hb, State.store_of_room hroom]
    exact ⟨rfl, State.parserMode_append hroom b⟩
  case fullOther => rw [State.pbyte_of_ne s hb, State.store_of_full hfull]
  case fullCr => rw [State.pbyte_asm, State.store_of_full hfull]

/-! ### Segments that are dropped -/

/-- `s` with the bytes stored as far as there is room (R205). -/
def State.storeAll (s : State) (bs : List Byte) : State := bs.foldl State.store s

theorem State.storeAll_eq (s : State) (bs : List Byte) :
    s.storeAll bs = { s with asm := (s.storeAll bs).asm, fill := (s.storeAll bs).fill } := by
  induction bs generalizing s with
  | nil => rfl
  | cons b bs ih =>
    exact (ih (s.store b)).trans <| congrArg
      (fun t : State => { t with asm := (s.storeAll (b :: bs)).asm, fill := (s.storeAll (b :: bs)).fill }) (s.store_eq b)

@[simp] theorem State.storeAll_slots (s : State) (bs : List Byte) : (s.storeAll bs).slots = s.slots := by
  rw [State.storeAll_eq]
@[simp] theorem State.storeAll_widx (s : State) (bs : List Byte) : (s.storeAll bs).widx = s.widx := by
  rw [State.storeAll_eq]
@[simp] theorem State.storeAll_draws (s : State) (bs : List Byte) : (s.storeAll bs).draws = s.draws := by
  rw [State.storeAll_eq]

theorem take_take_append {α : Type} (n : Nat) (xs ys : List α) : (xs.take n ++ ys).take n = (xs ++ ys).take n := by
  rw [List.take_append, List.take_append, List.take_take, Nat.min_self, List.length_take]
  congr 2
  omega

/-- R205: of a run of bytes those are kept for which there is room. -/
theorem State.segment_storeAll (h : s.asm.wf) (hf : s.fill ≤ s.cfg.asmCap - 1) (bs : List Byte) :
    (s.storeAll bs).segment = (s.segment ++ bs).take (s.cfg.asmCap - 1) := by
  induction bs generalizing s with
  | nil => rw [List.append_nil, List.take_of_length_le (by rwa [State.segment_length])]; rfl
  | cons b bs ih =>
    have htail := ih (State.store_asm_wf h b) (by simpa using State.store_fill_le hf b)
    rwa [State.segment_store h hf, State.store_cfg, take_take_append, List.append_assoc] at htail

/-- R204: without CR there is step a only. -/
theorem State.foldl_pbyte_eq_storeAll (hcr : crByte ∉ bs) : bs.foldl State.pbyte s = s.storeAll bs := by
  induction bs generalizing s with
  | nil => rfl
  | cons b bs ih =>
    obtain ⟨hb, hbs⟩ := not_or.1 (mt List.mem_cons.2 hcr)
    rw [List.foldl_cons, State.pbyte_of_ne s (Ne.symm hb)]
    exact ih hbs

/-- R206: a segment whose stored bytes `DEC` does not accept changes the assembly buffer only, which it empties. -/
theorem State.foldl_pbyte_of_dec_none (hi : s.Inv) (hf : s.fill = 0) (hcr : crByte ∉ bs)
    (hdec : ∀ pad, dec pad ((bs ++ [crByte]).take (s.cfg.asmCap - 1)) = none) :
    (bs ++ [crByte]).foldl State.pbyte s = (s.storeAll (bs ++ [crByte])).emptyAsm := by
  have hstored : (bs ++ [crByte]).foldl State.pbyte s = (s.storeAll (bs ++ [crByte])).endSegment := by
    rw [List.foldl_concat, State.foldl_pbyte_eq_storeAll hcr, State.pbyte_cr, State.storeAll, State.storeAll,
      List.foldl_concat]
  have hseg := State.segment_storeAll hi.asmForm hi.fill (bs ++ [crByte])
  rw [State.segment_of_fill_eq_zero hf, List.nil_append] at hseg
  rw [hstored]
  exact State.endSegment_of_none (hseg ▸ hdec _)

/-- R114, R117: no frame is longer than an extended data frame of eight payload bytes. -/
theorem length_le_of_dec_eq_some {pad : Nat → Byte} (h : dec pad bs = some m) : bs.length ≤ 27 := by
  obtain ⟨idField, ld, payload, last, rfl, hf⟩ := carries_iff_fieldsHold.1 (carries_of_dec_eq_some h)
  have hid := idDigits_le_eight m.extended
  have hpayload : payload.length ≤ 16 := by
    rw [hf.width, payloadWidth, hf.length]
    have hl := hf.length_le
    split <;> omega
  rw [frameBytes_length, hf.idWidth]
  omega

/-- Settles O49: the `A - 1` bytes that are kept are more than any frame has (D4). -/
theorem truncatedSegmentNeverDecodes : Obligations.TruncatedSegmentNeverDecodes := by
  rintro s bs hi hf hcr hlong t rfl
  have hcap := hi.cfg.asmCap
  have hdec : ∀ pad, dec pad ((bs ++ [crByte]).take (s.cfg.asmCap - 1)) = none := by
    refine fun pad => Option.eq_none_iff_forall_ne_some.2 fun m hm => ?_
    have hlen := length_le_of_dec_eq_some hm
    simp only [List.length_take, List.length_append, List.length_singleton] at hlen
    omega
  rw [cr_eq_crByte, State.foldl_pbyte_of_dec_none hi hf hcr hdec]
  simp

end Sys2Proof.Machine
end

section
/-! SUPPORT. The parser's pass (42_parser.md sections 2, 4 and 5): which bytes it takes, what it leaves unchanged, who runs
it, what a received segment comes to, and that the cutting of a stream into passes does not matter. -/

namespace Sys2Proof.Machine

variable {s t u : State} {i : Instr} {bs : List Byte} {ms : List Message}

/-! ### The new bytes -/

/-- R203: the count leads from one cursor to the other. -/
theorem add_newByteCount_mod {cur last cap : Nat} (hc : cur < cap) (hl : last < cap) :
    (last + newByteCount cur last cap) % cap = cur := by
  have hsum : last + (cur + cap - last) = cur + cap := by omega
  rw [newByteCount, Nat.add_mod_mod, hsum, Nat.add_mod_right, Nat.mod_eq_of_lt hc]

/-- R203 on integers. -/
theorem newByteCount_intCast {cur last cap : Nat} (hl : last < cap) :
    (newByteCount cur last cap : Int) = ((cur : Int) - last + cap) % cap := by
  rw [newByteCount, Int.natCast_mod, Nat.cast_sub (by omega), Nat.cast_add, sub_add_eq_add_sub]

/-- Settles O41: the count is a remainder, and from `M - 2` to 1 it is that of `M + 3 - M`. -/
theorem newByteCountIsModular : Obligations.NewByteCountIsModular := by
  refine ⟨fun cur last M hc hl => ⟨newByteCount_intCast hl, ?bound, add_newByteCount_mod hc hl, ?zero⟩, fun M hM => ?wrap⟩
  case bound => exact Nat.le_sub_one_of_lt (Nat.mod_lt _ (Nat.zero_lt_of_lt hc))
  case zero => rw [newByteCount_eq_zero_iff hc hl, eq_comm]
  case wrap =>
    have hsub : 1 + M - (M - 2) = 3 := by omega
    have htop : M - 2 + 2 = M := by omega
    refine ⟨?_, Nat.mod_eq_of_lt (by omega), ?_, ?_⟩
    · rw [newByteCount, hsub, Nat.mod_eq_of_lt (by omega)]
    · rw [Nat.mod_eq_of_lt (by omega)]
      omega
    · rw [htop, Nat.mod_self]

/-- Settles O42: those bytes are the new bytes, and with none of them the cursors are equal. -/
theorem passTakesNewBytesInOrder : Obligations.PassTakesNewBytesInOrder := by
  intro s bs hl hc hlen hbs
  have hlen' : s.newBytes.length = bs.length := s.newBytes_length.trans hlen.symm
  have hnew : s.newBytes = bs := List.ext_getElem hlen' fun k _ hk => by simpa [State.newBytes] using (hbs k hk).symm
  refine ⟨hnew ▸ State.pass_eq hc hl, fun hnil => State.pass_of_no_bytes ?_⟩
  rw [← State.newBytes_length, hnew, hnil, List.length_nil]

/-! ### What a pass writes -/

/-- R202: but for the committed cursor, a pass is its byte steps. -/
theorem State.pass_eq_commitCursor (s : State) :
    s.pass = (s.newBytes.foldl State.pbyte s).commitCursor s.pass.lastCur := by
  by_cases hn : newByteCount s.trxCur s.lastCur s.cfg.trxCap = 0
  · have hnil : s.newBytes = [] := List.eq_nil_of_length_eq_zero (s.newBytes_length.trans hn)
    rw [State.pass_of_no_bytes hn, hnil]
    rfl
  · rw [State.pass_of_bytes hn]
    rfl

theorem State.foldl_pbyte_asm_read (s : State) (bs : List Byte) {j : Nat} (hj : s.cfg.asmCap - 1 ≤ j) :
    (bs.foldl State.pbyte s).asm.read j = s.asm.read j := by
  induction bs generalizing s with
  | nil => rfl
  | cons b bs ih =>
    rw [List.foldl_cons, ih (s.pbyte b) (by simpa using hj), State.pbyte_asm, State.store_asm_read s b hj]

/-- The ring of `t` is the ring of `s` after the pushes of `ms` (R182), each of which has drawn once. -/
structure Pushed (s : State) (ms : List Message) (t : State) : Prop where
  ringCap : t.ringCap = s.ringCap
  slots : t.slots = (ms.foldl State.push s).slots
  widx : t.widx = (ms.foldl State.push s).widx
  draws : t.draws = s.draws + ms.length

theorem Pushed.refl (s : State) : Pushed s [] s := ⟨rfl, rfl, rfl, rfl⟩

theorem Pushed.store (h : Pushed s ms t) (b : Byte) : Pushed s ms (t.store b) :=
  ⟨by simpa using h.ringCap, by simpa using h.slots, by simpa using h.widx, by simpa using h.draws⟩

theorem Pushed.push_drawn_emptyAsm (h : Pushed s ms t) (m : Message) :
    Pushed s (ms ++ [m]) ((t.push m).drawn).emptyAsm := by
  obtain ⟨hcap, hslots, hwidx, hdraws⟩ := h
  exact ⟨hcap, by simp [hslots, hwidx], by simp [hcap, hwidx], by simp [hdraws, Nat.add_assoc]⟩

/-- R206: at most one PUSH per segment. -/
theorem Pushed.endSegment (h : Pushed s ms t) : ∃ ms', Pushed s ms' t.endSegment := by
  cases hd : dec t.pad t.segment with
  | none =>
    rw [State.endSegment_of_none hd]
    exact ⟨ms, { h with }⟩
  | some m =>
    rw [State.endSegment_of_some hd]
    exact ⟨_, h.push_drawn_emptyAsm m⟩

theorem Pushed.pbyte (h : Pushed s ms t) (b : Byte) : ∃ ms', Pushed s ms' (t.pbyte b) := by
  unfold State.pbyte
  split
  · exact (h.store b).endSegment
  · exact ⟨ms, h.store b⟩

theorem Pushed.foldl_pbyte (h : Pushed s ms t) (bs : List Byte) : ∃ ms', Pushed s ms' (bs.foldl State.pbyte t) := by
  induction bs generalizing ms t with
  | nil => exact ⟨ms, h⟩
  | cons b bs ih =>
    obtain ⟨ms', h'⟩ := h.pbyte b
    exact ih h'

theorem exists_pushed_pass (s : State) : ∃ ms, Pushed s ms s.pass := by
  obtain ⟨ms, h⟩ := (Pushed.refl s).foldl_pbyte s.newBytes
  rw [State.pass_eq_commitCursor]
  exact ⟨ms, { h with }⟩

/-! ### The operations that run a pass -/

theorem exec_next_of_runsPass (hi : runsPass i = true) (h : exec i s = .next t) : ∃ v, t = s.pass.finish v := by
  simp only [runsPass, Bool.or_eq_true, decide_eq_true_eq] at hi
  obtain rfl | rfl := hi
  · exact ⟨_, (exec_rxbuf_next h).2⟩
  · exact ⟨_, (exec_rxcur_next h).2⟩

/-- Settles O11: RXBUF is a pass and its reply, and a pass keeps the extent. -/
theorem rxbufReturnsExtent : Obligations.RxbufReturnsExtent := by
  intro s ha
  rw [exec_rxbuf ha, State.pass_ringCap]
  rfl

/-- Settles O12: RXCUR is a pass and its reply. -/
theorem rxcurReturnsCursorAfterPass : Obligations.RxcurReturnsCursorAfterPass :=
  fun _ ha => exec_rxcur ha

/-- Settles O40: a pass is byte steps and one commit, and byte steps change the ring by pushes only. -/
theorem passWritesParserAndRingOnly : Obligations.PassWritesParserAndRingOnly := by
  intro i s t hi h
  obtain ⟨v, rfl⟩ := exec_next_of_runsPass hi h
  obtain ⟨ms, hms⟩ := exists_pushed_pass s
  refine ⟨?frame, ?draws, fun j hj => ?asm, fun hcr => ?noCr, fun hw => ?ring⟩
  case frame =>
    rw [State.pass_frame]
    rfl
  case draws =>
    rw [State.finish_draws, hms.draws]
    exact Nat.le_add_right _ _
  case asm =>
    rw [State.finish_asm, State.pass_eq_commitCursor]
    exact State.foldl_pbyte_asm_read s _ hj
  case noCr =>
    rw [State.pass_eq_commitCursor, State.foldl_pbyte_eq_storeAll hcr]
    simp
  case ring =>
    have hcount : (s.pass.finish v).draws - s.draws = ms.length := by
      rw [State.finish_draws, hms.draws, Nat.add_sub_cancel_left]
    rw [hcount, State.finish_widx, State.finish_slots, hms.widx, hms.slots]
    exact ⟨State.foldl_push_widx hw ms, fun j => State.foldl_push_read_other hw ms⟩

/-! ### Nothing else runs it -/

@[simp] theorem State.receive_asm (s : State) (bs : List Byte) : (s.receive bs).asm = s.asm := by
  rw [State.receive_frame]
@[simp] theorem State.receive_slots (s : State) (bs : List Byte) : (s.receive bs).slots = s.slots := by
  rw [State.receive_frame]
@[simp] theorem State.receive_draws (s : State) (bs : List Byte) : (s.receive bs).draws = s.draws := by
  rw [State.receive_frame]

/-- R201: an instruction that runs no pass leaves the assembly buffer's bytes, and draws nothing. -/
theorem Completes.asm_draws_eq (hc : Completes i s t) (hi : runsPass i = false) : t.asm = s.asm ∧ t.draws = s.draws := by
  cases hc with
  | rxbuf | rxcur => cases hi
  | _ => simp

/-- R201: of those, ACQTR alone writes the rest of the parser and the ring. -/
theorem Completes.parser_ring_eq (hc : Completes i s t) (hi : runsPass i = false) (ha : ∀ req, i ≠ .acqtr req) :
    t.fill = s.fill ∧ t.lastCur = s.lastCur ∧ t.slots = s.slots ∧ t.widx = s.widx := by
  cases hc with
  | rxbuf | rxcur => cases hi
  | acqtr req => exact absurd rfl (ha req)
  | _ => simp

/-- Settles O39: RXBUF and RXCUR are a pass and a reply; every other way to complete, and every arrival, leaves the parser. -/
theorem onlyRxbufAndRxcurRunThePass : Obligations.OnlyRxbufAndRxcurRunThePass := by
  refine ⟨fun i s t h hi => ?pass, fun i s t h hi => ?others, fun s t bytes rest hin h => ?arrival⟩
  case pass =>
    obtain ⟨v, rfl⟩ := exec_next_of_runsPass hi h
    rfl
  case others =>
    have hc := completes_of_exec h
    obtain ⟨hasm, hdraws⟩ := hc.asm_draws_eq hi
    exact ⟨hasm, hdraws, hc.parser_ring_eq hi⟩
  case arrival =>
    rw [step_of_inputs_eq_rx hin] at h
    cases h
    simp

/-! ### A segment that arrives -/

/-- RXCUR takes what arrived behind a parser that has caught up. -/
theorem exec_rxcur_receive (hi : s.Inv) (hs : s.CaughtUp) (hb : bs.length < s.cfg.trxCap)
    (hu : bs.foldl State.pbyte (s.receive bs) = u) :
    exec .rxcur (s.receive bs) = .next ((u.commitCursor u.trxCur).finish (some (.cursor u.widx))) := by
  rw [exec_rxcur (by simpa using hs.held), State.pass_receive hi hs.consumed hb, ← hu, State.foldl_pbyte_trxCur]
  rfl

/-- Settles O50: the first byte is kept, so `DEC` sees a foreign command byte, whatever else was kept. -/
theorem foreignSegmentsAreDropped : Obligations.ForeignSegmentsAreDropped := by
  intro s c seg hi hs hc hcr hb
  have hcap : s.cfg.asmCap - 1 = s.cfg.asmCap - 2 + 1 := by
    have hcap := hi.cfg.asmCap
    omega
  have hdec : ∀ pad, dec pad ((c :: seg ++ [crByte]).take ((s.receive (c :: seg ++ [crByte])).cfg.asmCap - 1)) = none := by
    intro pad
    rw [State.receive_cfg, hcap, List.cons_append, List.take_succ_cons]
    exact dec_of_frameKind_eq_none hc _
  have hdrop := State.foldl_pbyte_of_dec_none (hi.receive _) (by simpa using hs.empty) hcr hdec
  refine ⟨_, exec_rxcur_receive hi hs (by simpa using hb) hdrop, ?_⟩
  simp

/-- Settles O53: the frame's bytes are `ENC(m)`, which the pass takes into an empty buffer and pushes once. -/
theorem receivedFrameEntersTheRing : Obligations.ReceivedFrameEntersTheRing := by
  intro s m hi hs hm hb
  obtain ⟨m', hequiv, hfold⟩ := State.foldl_pbyte_enc (hi.receive (enc m)) (by simpa using hs.empty) hm
  have harrive : exec (frameOf m) s = .next (s.receive (enc m)) := by
    rw [exec_of_isWireFrame (isWireFrame_frameOf m), encode_frameOf]
  refine ⟨_, _, m', harrive, exec_rxcur_receive hi hs hb hfold, ?written, hequiv, ?widx, rfl, rfl, rfl,
    fun j hj => ?others⟩
  case written => simpa using Slots.read_write_same m'
  case widx => simp
  case others => simpa using Slots.read_write_other m' hj

/-! ### A stream cut into passes -/

/-- Received bytes, and a pass that takes them. -/
def State.receivePass (s : State) (bs : List Byte) : State := (s.receive bs).pass

/-- The parser has consumed every byte, and the transport's ring can take more. -/
structure State.Drained (s : State) : Prop where
  trxCur : s.trxCur < s.cfg.trxCap
  trxForm : s.trx.wf
  consumed : s.lastCur = s.trxCur

/-- R61, R202: what is received behind a drained parser is what the pass takes. -/
theorem State.Drained.receivePass_eq (h : s.Drained) (hb : bs.length < s.cfg.trxCap) :
    s.receivePass bs = (bs.foldl State.pbyte (s.receive bs)).commitCursor ((s.trxCur + bs.length) % s.cfg.trxCap) := by
  have hcur := State.receive_trxCur s bs h.trxCur
  have hlt : (s.receive bs).trxCur < s.cfg.trxCap := hcur ▸ Nat.mod_lt _ (Nat.zero_lt_of_lt h.trxCur)
  rw [State.receivePass, State.pass_eq (by simpa using hlt) (by simpa [h.consumed] using h.trxCur),
    State.newBytes_receive h.trxCur h.trxForm h.consumed hb, hcur]

theorem State.Drained.receivePass_trxCur (h : s.Drained) (bs : List Byte) :
    (s.receivePass bs).trxCur = (s.trxCur + bs.length) % s.cfg.trxCap := by
  rw [State.receivePass, State.pass_trxCur, State.receive_trxCur s bs h.trxCur]

theorem State.receivePass_cfg (s : State) (bs : List Byte) : (s.receivePass bs).cfg = s.cfg := by
  simp [State.receivePass]

/-- R207: the pass drains the parser again. -/
theorem State.Drained.receivePass (h : s.Drained) (hb : bs.length < s.cfg.trxCap) : (s.receivePass bs).Drained where
  trxCur := by
    rw [h.receivePass_trxCur, State.receivePass_cfg]
    exact Nat.mod_lt _ (Nat.zero_lt_of_lt h.trxCur)
  trxForm := by simpa [State.receivePass] using State.receive_trx_wf h.trxForm bs
  consumed := by rw [h.receivePass_trxCur, h.receivePass_eq hb, State.commitCursor_lastCur]

/-- A byte step reads neither the transport's ring nor its cursors. -/
theorem ParserEquiv.receive (h : ParserEquiv s u) (bs : List Byte) : ParserEquiv (s.receive bs) u := by
  rw [State.receive_frame]
  exact { h with }

theorem ParserEquiv.commitCursor (h : ParserEquiv s u) (c : Nat) : ParserEquiv (s.commitCursor c) u := { h with }

/-- One chunk: a pass over it, on one side, is its byte steps, on the other. -/
theorem ParserEquiv.receivePass (h : ParserEquiv s u) (hs : s.Drained) (hb : bs.length < s.cfg.trxCap) :
    ParserEquiv (s.receivePass bs) (bs.foldl State.pbyte u) := by
  rw [hs.receivePass_eq hb]
  exact ((h.receive bs).foldl bs).commitCursor _

/-- R217: any number of chunks. -/
theorem ParserEquiv.foldl_receivePass {chunks : List (List Byte)} (h : ParserEquiv s u) (hs : s.Drained)
    (hb : ∀ c ∈ chunks, c.length < s.cfg.trxCap) :
    ParserEquiv (chunks.foldl State.receivePass s) (chunks.flatten.foldl State.pbyte u) ∧
      (chunks.foldl State.receivePass s).Drained ∧
      (chunks.foldl State.receivePass s).trxCur = (s.trxCur + chunks.flatten.length) % s.cfg.trxCap := by
  induction chunks generalizing s u with
  | nil => exact ⟨h, hs, (Nat.mod_eq_of_lt hs.trxCur).symm⟩
  | cons c chunks ih =>
    obtain ⟨hc, hb⟩ := List.forall_mem_cons.1 hb
    obtain ⟨hequiv, hdrained, hcur⟩ :=
      ih (h.receivePass hs hc) (hs.receivePass hc) (by rwa [State.receivePass_cfg])
    rw [hs.receivePass_trxCur, State.receivePass_cfg, Nat.mod_add_mod, Nat.add_assoc] at hcur
    rw [List.flatten_cons, List.foldl_append, List.length_append]
    exact ⟨hequiv, hdrained, hcur⟩

/-- Settles O47: by induction on the chunks, with the two parsers `~` throughout. -/
theorem passSplitInvariance : Obligations.PassSplitInvariance := by
  rintro s chunks hi hl hb t u rfl rfl
  obtain ⟨hequiv, hdrained, hcur⟩ :=
    (ParserEquiv.refl s).foldl_receivePass ⟨hi.trxCur, hi.trxForm, hl⟩ hb
  exact ⟨hequiv.asm, hequiv.fill, hequiv.slots, hequiv.widx, hequiv.draws, hdrained.consumed, hcur⟩

end Sys2Proof.Machine
end

section
/-! SUPPORT. The adapter control unit (43_control.md): the facet an operation needs (R240), what each control operation
answers by the state it meets, and the bus-off handler, which nothing reads. -/

namespace Sys2Proof.Machine

variable {s t u v : State} {i : Instr} {m : Message}

/-! ### The facet an operation needs -/

/-- The facet without which the instruction has no meaning (R240). -/
def neededFacet : Instr → Option Facet
  | .setbaud _ | .setfilt _ | .regboff _ | .buson => some .busManager
  | .baud | .send _ | .rxbuf | .rxcur | .rdslot _ => some .transceiver
  | _ => none

theorem exec_of_facet_not_held {f : Facet} (hf : neededFacet i = some f) (hs : s.holds f = false) :
    exec i s = .refused (.facetNotHeld f) := by
  cases i with
  | setbaud | setfilt | regboff | buson | baud | send | rxbuf | rxcur | rdslot =>
    cases hf
    exact withFacet_of_not_holds hs _
  | _ => cases hf

/-- Settles O13: each of the nine needs the facet it is refused without. -/
theorem facetOperationsNeedTheirFacet : Obligations.FacetOperationsNeedTheirFacet := fun _ =>
  ⟨fun hb => ⟨fun _ => exec_of_facet_not_held rfl hb, fun _ => exec_of_facet_not_held rfl hb,
      fun _ => exec_of_facet_not_held rfl hb, exec_of_facet_not_held rfl hb⟩,
    fun ht => ⟨exec_of_facet_not_held rfl ht, fun _ => exec_of_facet_not_held rfl ht, exec_of_facet_not_held rfl ht,
      exec_of_facet_not_held rfl ht, fun _ => exec_of_facet_not_held rfl ht⟩⟩

/-! ### The bus-off handler -/

/-- The state with another handler stored (R33). -/
def State.withBoff (b : Option Token) (s : State) : State := { s with boff := b }

theorem State.receive_withBoff (b : Option Token) (s : State) (bs : List Byte) :
    (s.withBoff b).receive bs = (s.receive bs).withBoff b := by
  induction bs generalizing s with
  | nil => rfl
  | cons c bs ih => exact ih (s.produce c)

theorem SameOutsideParser.withBoff (b : Option Token) (h : SameOutsideParser s t) :
    SameOutsideParser (s.withBoff b) (t.withBoff b) :=
  congrArg (State.withBoff b) h

theorem ParserEquiv.withBoff (b : Option Token) (h : ParserEquiv s t) : ParserEquiv s (t.withBoff b) := { h with }

/-- Parsers that are `~` and agree on all that a byte step leaves alone are `~` as states. -/
theorem ParserEquiv.state_equiv (h : ParserEquiv u v) (hu : SameOutsideParser s u) (hv : SameOutsideParser s v) :
    State.Equiv u v := by
  refine ⟨h.slots, ?_⟩
  unfold SameOutsideParser at hu hv
  rw [hu, hv]
  simp [h.widx, h.asm, h.fill, h.draws]

/-- R280: the byte steps of a pass read no handler; only the don't-care bytes of what they push may differ (R153). -/
theorem State.foldl_pbyte_withBoff (b : Option Token) (s : State) (bs : List Byte) :
    State.Equiv (bs.foldl State.pbyte (s.withBoff b)) ((bs.foldl State.pbyte s).withBoff b) := by
  have hstart : ParserEquiv (s.withBoff b) s := { ParserEquiv.refl s with }
  exact ((hstart.foldl bs).withBoff b).state_equiv (State.foldl_pbyte_frame _ bs) ((s.foldl_pbyte_frame bs).withBoff b)

theorem State.pass_withBoff (b : Option Token) (s : State) : State.Equiv (s.withBoff b).pass (s.pass.withBoff b) := by
  by_cases hn : newByteCount s.trxCur s.lastCur s.cfg.trxCap = 0
  · rw [State.pass_of_no_bytes hn, State.pass_of_no_bytes (s := s.withBoff b) hn]
    exact State.Equiv.refl _
  · rw [State.pass_of_bytes hn, State.pass_of_bytes (s := s.withBoff b) hn]
    exact (State.foldl_pbyte_withBoff b s s.newBytes).commitCursor s.trxCur

theorem State.Equiv.finish (h : State.Equiv s t) (v : Option Value) : State.Equiv (s.finish v) (t.finish v) := by
  obtain ⟨hslots, heq⟩ := h
  exact ⟨hslots, by rw [heq]; rfl⟩

theorem State.Equiv.widx_eq (h : State.Equiv s t) : s.widx = t.widx := by
  rw [h.2]

theorem OutcomeEquiv.refl (o : Host.Outcome State Fault Refusal) : OutcomeEquiv o o := by
  cases o with
  | next s => exact State.Equiv.refl s
  | fault | refused => rfl

/-- R280: an instruction that runs no pass and stores no handler reads none. -/
theorem exec_withBoff (hp : runsPass i = false) (hi : ∀ cb, i ≠ .regboff cb) (b : Option Token) (s : State) :
    exec i (s.withBoff b) = mapNext (·.withBoff b) (exec i s) := by
  cases i with
  | stdData | stdRemote | extData | extRemote | baudFrame | openFrame =>
    rw [exec_of_isWireFrame rfl, exec_of_isWireFrame rfl, State.receive_withBoff]
    rfl
  | rxbuf | rxcur => cases hp
  | regboff cb => exact absurd rfl (hi cb)
  | setbaud hz =>
    simp only [exec, execSetbaud, mapNext_withFacet, mapNext_ite]
    cases baudCh hz <;> rfl
  | acqbm | acqtr | setfilt | buson | baud | send | rdslot =>
    simp only [exec, execAcqbm, execAcqtr, execSetfilt, execBuson, execBaud, execSend, execRdslot, mapNext_withFacet,
      mapNext_ite]
    rfl

/-- R280: the two operations that run a pass answer `~` states whatever handler is stored. -/
theorem exec_withBoff_of_runsPass (hp : runsPass i = true) (b : Option Token) (s : State) :
    OutcomeEquiv (exec i (s.withBoff b)) (mapNext (·.withBoff b) (exec i s)) := by
  have hpass := State.pass_withBoff b s
  simp only [runsPass, Bool.or_eq_true, decide_eq_true_eq] at hp
  cases ha : s.trAcq with
  | false =>
    have hf : neededFacet i = some .transceiver := by obtain rfl | rfl := hp <;> rfl
    rw [exec_of_facet_not_held hf ha, exec_of_facet_not_held (s := s.withBoff b) hf ha]
    rfl
  | true =>
    obtain rfl | rfl := hp
    · rw [exec_rxbuf ha, exec_rxbuf (s := s.withBoff b) ha, State.pass_ringCap, State.pass_ringCap]
      exact hpass.finish _
    · rw [exec_rxcur ha, exec_rxcur (s := s.withBoff b) ha, hpass.widx_eq]
      exact hpass.finish _

/-- Settles O6: REGBOFF overwrites the one handler; a pass answers `~` states whatever it is, the others equal ones. -/
theorem busOffHandlerStoredNeverRead : Obligations.BusOffHandlerStoredNeverRead := by
  refine ⟨fun s cb ha => exec_regboff ha cb, fun s t h1 h2 h => ?latest, fun i s b hi => ?others, fun _ _ _ => rfl⟩
  case latest =>
    obtain ⟨ha, rfl⟩ := exec_regboff_next h
    exact exec_regboff (s := (s.setBoff h1).finish none) ha h2
  case others =>
    cases hp : runsPass i with
    | true => exact exec_withBoff_of_runsPass hp b s
    | false =>
      have heq : exec i { s with boff := b } = mapNext (·.withBoff b) (exec i s) := exec_withBoff hp hi b s
      rw [heq]
      exact OutcomeEquiv.refl _

/-! ### What each control operation answers -/

theorem exec_setfilt (ha : s.bmAcq = true) (mode : Token) : exec (.setfilt mode) s = .next (s.finish none) :=
  withFacet_of_holds (f := .busManager) ha _

theorem exec_baud (ha : s.trAcq = true) : exec .baud s = .next (s.finish (some (.rate s.baud))) :=
  withFacet_of_holds (f := .transceiver) ha _

theorem exec_acqbm_of_not_held (ha : s.bmAcq = false) : exec .acqbm s = .next (s.takeBusManager.finish none) := by
  simp [exec, execAcqbm, ha]

theorem exec_setbaud_of_open (ha : s.bmAcq = true) (ho : s.busOpen = true) (hz : Word) :
    exec (.setbaud hz) s = .next (s.raise .notPermitted) := by
  simp [exec, execSetbaud, withFacet, ha, ho]

theorem exec_setbaud_of_no_rate (ha : s.bmAcq = true) (ho : s.busOpen = false) {hz : Word} (hx : baudCh hz = none) :
    exec (.setbaud hz) s = .next (s.raise .notSupported) := by
  simp [exec, execSetbaud, withFacet, ha, ho, hx]

theorem exec_buson_of_closed (ha : s.bmAcq = true) (ho : s.busOpen = false) :
    exec .buson s = .next (((s.tx (encode (.openFrame crByte))).openBus).finish none) := by
  simp [exec, execBuson, withFacet, ha, ho]

theorem exec_send_of_closed (ha : s.trAcq = true) (ho : s.busOpen = false) (m : Message) :
    exec (.send m) s = .next (s.raise .notSupported) := by
  simp [exec, execSend, withFacet, ha, ho]

theorem exec_send_of_invalid (ha : s.trAcq = true) (ho : s.busOpen = true) (hm : validMessage m = false) :
    exec (.send m) s = .refused .invalidMessage := by
  simp [exec, execSend, withFacet, ha, ho, hm]

theorem validMessage_eq_true_iff :
    validMessage m = true ↔ m.length ≤ 8 ∧ m.id.toNat ≤ maxId m.extended := by
  simp [validMessage]

/-- R22: a message that breaks one of the two bounds is invalid. -/
theorem validMessage_eq_false_iff :
    validMessage m = false ↔ 8 < m.length ∨ maxId m.extended < m.id.toNat := by
  rw [Bool.eq_false_iff, ne_eq, validMessage_eq_true_iff, not_and_or, not_le, not_le]

/-! ### The statements about them -/

/-- Settles O1: the flag is set once, and no instruction clears it. -/
theorem busManagerAcquiredOnce : Obligations.BusManagerAcquiredOnce := by
  refine fun s => ⟨exec_acqbm_of_not_held, exec_acqbm_of_held, fun i t ha h => exec_acqbm_of_held ?_⟩
  obtain ⟨-, hbm, -⟩ := (completes_of_exec h).flagsKept
  exact hbm ha

/-- Settles O2: held, the request is ignored; else its size alone decides. -/
theorem transceiverAcquiredOnce : Obligations.TransceiverAcquiredOnce := by
  refine fun s req => ⟨fun ha => exec_acqtr_of_held ha req, fun ha hreq => ?admitted, fun ha hreq => ?tooLarge⟩
  case admitted =>
    have hfits : ¬ s.tooLarge req = true := by simpa [State.tooLarge] using hreq
    rw [exec_acqtr_of_not_held ha, if_neg hfits]
    rfl
  case tooLarge => exact (exec_acqtr_of_not_held ha req).trans (if_pos (decide_eq_true hreq))

/-- Settles O4: the bus state decides first, then whether the table has the rate. -/
theorem setBaudEmitsAndRecordsRate : Obligations.SetBaudEmitsAndRecordsRate := by
  refine fun s hz ha => ⟨fun ho => exec_setbaud_of_open ha ho hz, fun ho x hx => ?rate, fun ho hx => ?noRate⟩
  case rate => exact exec_setbaud_of_rate ha ho (baudCh_eq_some_iff_mem.2 hx)
  case noRate =>
    exact exec_setbaud_of_no_rate ha ho (Option.eq_none_iff_forall_ne_some.2 fun x h => hx x (baudCh_eq_some_iff_mem.1 h))

/-- Settles O5: whatever the mode, it is accepted. -/
theorem setFilterIsNoOp : Obligations.SetFilterIsNoOp :=
  fun _ mode ha => exec_setfilt ha mode

/-- Settles O7: the frame `O` goes out only on the way from closed to open. -/
theorem busOnOpensOnce : Obligations.BusOnOpensOnce :=
  fun _ ha => ⟨exec_buson_of_open ha, exec_buson_of_closed ha⟩

/-- Settles O8: of the ways SETBAUD completes, the one that replies OK has set the rate. -/
theorem baudReadsSharedRate : Obligations.BaudReadsSharedRate := by
  refine ⟨fun s ha => exec_baud ha, fun s t hz ha h hok => ?_⟩
  obtain ⟨-, ⟨-, rfl⟩ | ⟨-, -, rfl⟩ | ⟨x, -, -, rfl⟩⟩ := exec_setbaud_next h
  · cases hok
  · cases hok
  · exact exec_baud ha

/-- Settles O9: the bus state decides first, then whether the message is valid. -/
theorem sendEmitsFrameWhenOpen : Obligations.SendEmitsFrameWhenOpen :=
  fun _ m ha => ⟨fun ho => exec_send_of_closed ha ho m,
    fun ho hl hid => exec_send_of_open ha ho (validMessage_eq_true_iff.2 ⟨hl, hid⟩),
    fun ho hinv => exec_send_of_invalid ha ho (validMessage_eq_false_iff.2 hinv)⟩

end Sys2Proof.Machine
end

section
/-! SUPPORT. What an instruction emits (43_control.md section 5, R239): three of them, on their success path. -/

namespace Sys2Proof.Machine

variable {s t : State} {i : Instr} {m : Message}

/-- The instruction is one that emits where it returns OK (R239). -/
def Emitter (i : Instr) (s : State) : Prop :=
  (∃ hz, i = .setbaud hz) ∨ (i = .buson ∧ s.busOpen = false) ∨ (∃ m, i = .send m)

/-- `bs` is as long as what the instruction emits: SETBAUD 3 bytes, BUSON when closed 2, SEND 6 to 27 (R239). -/
def EmissionSized (i : Instr) (s : State) (bs : List Byte) : Prop :=
  (∃ hz, i = .setbaud hz ∧ bs.length = 3) ∨ (i = .buson ∧ s.busOpen = false ∧ bs.length = 2) ∨
    (∃ m, i = .send m ∧ 6 ≤ bs.length ∧ bs.length ≤ 27)

/-- From `s` to `t` the instruction emits `bs`: some bytes of its size with OK, or none, and then not as an emitter that
returns OK (R239). -/
def Emits (i : Instr) (s t : State) (bs : List Byte) : Prop :=
  t.txlog = s.txlog ++ bs ∧ (bs ≠ [] → t.reply = some ⟨.ok, none⟩ ∧ EmissionSized i s bs) ∧
    (t.reply = some ⟨.ok, none⟩ → Emitter i s → bs ≠ [])

theorem Emits.of_sized {bs : List Byte} (htx : t.txlog = s.txlog ++ bs) (hok : t.reply = some ⟨.ok, none⟩)
    (hbs : bs ≠ []) (hsize : EmissionSized i s bs) : Emits i s t bs :=
  ⟨htx, fun _ => ⟨hok, hsize⟩, fun _ _ => hbs⟩

theorem Emits.nil (htx : t.txlog = s.txlog) (h : t.reply = some ⟨.ok, none⟩ → ¬ Emitter i s) : Emits i s t [] :=
  ⟨by simp [htx], fun hbs => absurd rfl hbs, fun hok he => absurd he (h hok)⟩

theorem enc_length_bounds (hm : validMessage m = true) : 6 ≤ (enc m).length ∧ (enc m).length ≤ 27 := by
  obtain ⟨hlen, hmax, -⟩ := encodedLengthAndAlphabet m hm
  refine ⟨?_, hmax⟩
  rw [hlen]
  split <;> omega

/-- R239: the three successes emit; an error reply, BUSON in the open state and every other instruction emit nothing. -/
theorem Completes.exists_emits (hc : Completes i s t) : ∃ bs, Emits i s t bs := by
  cases hc with
  | setbaud hz x => exact ⟨_, .of_sized rfl rfl (List.cons_ne_nil _ _) (.inl ⟨hz, rfl, rfl⟩)⟩
  | buson _ _ ho => exact ⟨_, .of_sized rfl rfl (List.cons_ne_nil _ _) (.inr (.inl ⟨rfl, ho, rfl⟩))⟩
  | send m _ _ _ hm =>
    exact ⟨enc m, .of_sized rfl rfl (List.cons_ne_nil _ _) (.inr (.inr ⟨m, rfl, enc_length_bounds hm⟩))⟩
  | setbaudOpen | setbaudRate | sendClosed => exact ⟨[], .nil rfl fun hok => by cases hok⟩
  | busonAgain _ _ ho => exact ⟨[], .nil rfl fun _ => by simp [Emitter, ho]⟩
  | arrives _ _ hw =>
    refine ⟨[], .nil (State.receive_txlog _ _) fun _ he => ?_⟩
    obtain ⟨_, rfl⟩ | ⟨rfl, -⟩ | ⟨_, rfl⟩ := he <;> cases hw
  | _ => exact ⟨[], .nil (by simp) fun _ => by simp [Emitter]⟩

/-- Settles O34: by the ways an instruction completes. -/
theorem onlyThreeOperationsEmit : Obligations.OnlyThreeOperationsEmit :=
  fun _ _ _ h => (completes_of_exec h).exists_emits

end Sys2Proof.Machine
end

section
/-! SUPPORT. Errors and what has no meaning (60_exceptions.md): the refusals of the fetch, the segment that is dropped
silently, and the status of every host operation that completes. -/

namespace Sys2Proof.Machine

variable {s t : State} {e : Event} {r : Refusal} {i : Instr} {st : Status}

/-! ### Requests without a meaning (R285(e), R285(f)) -/

theorem decodeHost_of_reservedSelect {c : Byte} (hlo : 0xB ≤ c.toNat) (hhi : c.toNat ≤ 0xF) (ops : List Byte) :
    decodeHost (c :: ops) = .error (.reservedSelect c.toNat) := by
  simp only [decodeHost]
  generalize c.toNat = n at hlo hhi
  interval_cases n <;> rfl

theorem fetchEvent_op_of_reservedSelect {c : Byte} (hlo : 0xB ≤ c.toNat) (hhi : c.toNat ≤ 0xF) (ops : List Byte)
    (s : State) : fetchEvent (.op (c :: ops)) s = .stop (.reservedSelect c.toNat) := by
  simp only [fetchEvent, decodeHost_of_reservedSelect hlo hhi, refusalOf]

theorem step_of_fetchEvent_stop {rest : List Event} (hin : s.inputs = e :: rest)
    (hf : fetchEvent e { s with inputs := rest } = .stop r) : step s = .refused r := by
  simp only [step, fetch_of_inputs_eq_cons hin, hf]

/-- Settles O17: the fetch stops at the select code, or at the overlap, and names it. -/
theorem meaninglessRequestsAreRefused : Obligations.MeaninglessRequestsAreRefused :=
  fun _ _ => ⟨fun _ ops hin hlo hhi => step_of_fetchEvent_stop hin (fetchEvent_op_of_reservedSelect hlo hhi ops _),
    fun _ _ hin => step_of_fetchEvent_stop hin rfl⟩

/-! ### The malformed segment (R274) -/

theorem State.pbyte_cr_of_dec_none (h : dec (s.store crByte).pad (s.store crByte).segment = none) :
    s.pbyte crByte = { s with asm := (s.pbyte crByte).asm, fill := 0 } := by
  rw [State.pbyte_asm, State.pbyte_cr, State.endSegment_of_none h, State.store_eq]
  rfl

/-- Settles O51: a failed CR is one store and the emptied buffer; with the facet RXBUF and RXCUR always finish with OK. -/
theorem malformedSegmentsDropSilently : Obligations.MalformedSegmentsDropSilently :=
  ⟨fun _ => State.pbyte_cr_of_dec_none,
    fun _ ha => ⟨⟨_, exec_rxbuf ha, rfl⟩, ⟨_, exec_rxcur ha, rfl⟩⟩⟩

/-! ### The status of a host operation (R271 to R273, R276) -/

/-- The status a host operation returns where it completes, by the operation and the state it meets. -/
def statusOf : Instr → State → Status
  | .acqbm, s => if s.bmAcq then .busy else .ok
  | .acqtr _, s => if s.trAcq then .busy else .ok
  | .setbaud hz, s => if s.busOpen then .notPermitted else if baudCh hz = none then .notSupported else .ok
  | .send _, s => if s.busOpen then .ok else .notSupported
  | _, _ => .ok

theorem Completes.reply_of_statusOf (hc : Completes i s t) (hi : isWireFrame i = false) :
    ∃ v, t.reply = some ⟨statusOf i s, v⟩ := by
  cases hc with
  | arrives _ _ hw => exact absurd hw (Bool.eq_false_iff.1 hi)
  | _ => simp [statusOf, *]

/-- R277: an operation that does not return OK does nothing but return its status. -/
theorem Completes.eq_raise_of_statusOf_ne_ok (hc : Completes i s t) (hi : isWireFrame i = false)
    (he : statusOf i s ≠ .ok) : t = s.raise (statusOf i s) := by
  cases hc with
  | arrives _ _ hw => exact absurd hw (Bool.eq_false_iff.1 hi)
  | acqbmBusy | acqtrBusy | setbaudOpen | setbaudRate | sendClosed => simp [statusOf, *]
  | _ => exact absurd (by simp [statusOf, *]) he

/-- The status a completed host operation replies with is the one `statusOf` tells. -/
theorem Completes.exists_reply_iff (hc : Completes i s t) (hi : isWireFrame i = false) :
    (∃ v, t.reply = some ⟨st, v⟩) ↔ statusOf i s = st := by
  obtain ⟨v, hv⟩ := hc.reply_of_statusOf hi
  simp [hv]

/-- The causes of the three errors (R271 to R273). -/
theorem statusOf_error_iff :
    (statusOf i s = .busy ↔ (i = .acqbm ∧ s.bmAcq = true) ∨ (∃ req, i = .acqtr req ∧ s.trAcq = true)) ∧
    (statusOf i s = .notSupported ↔
      (∃ hz, i = .setbaud hz ∧ s.busOpen = false ∧ baudCh hz = none) ∨ (∃ m, i = .send m ∧ s.busOpen = false)) ∧
    (statusOf i s = .notPermitted ↔ ∃ hz, i = .setbaud hz ∧ s.busOpen = true) := by
  cases i with
  | acqbm | acqtr | setbaud | send =>
    simp only [statusOf]
    split_ifs <;> simp [*]
  | _ => simp [statusOf]

/-- Settles O59: the status is told by the operation and the state it meets, and an error is a `raise` of it. -/
theorem errorStatusesAndTheirCauses : Obligations.ErrorStatusesAndTheirCauses := by
  intro i s t hi h
  have hc := completes_of_exec h
  obtain ⟨hbusy, hunsupported, hforbidden⟩ := statusOf_error_iff (i := i) (s := s)
  refine ⟨(hc.exists_reply_iff hi).trans hbusy, (hc.exists_reply_iff hi).trans hunsupported,
    (hc.exists_reply_iff hi).trans hforbidden, fun e v hr he => ?error⟩
  case error =>
    obtain rfl := (hc.exists_reply_iff hi).1 ⟨v, hr⟩
    obtain rfl := hc.eq_raise_of_statusOf_ne_ok hi he
    cases hr
    exact ⟨rfl, rfl⟩

end Sys2Proof.Machine
end

section
/-! SUPPORT. Reset and hazards (70_reset_and_hazards.md): how many messages one pass can push, and the block that waits for
its host. -/

namespace Sys2Proof.Machine

variable {s : State} {m : Message} {bs : List Byte}

/-! ### The pushes of one pass (R311) -/

/-- R114: no frame is shorter than a standard remote frame, or a standard data frame without payload. -/
theorem six_le_length_of_dec_eq_some {pad : Nat → Byte} (h : dec pad bs = some m) : 6 ≤ bs.length := by
  obtain ⟨idField, ld, payload, last, rfl, hf⟩ := carries_iff_fieldsHold.1 (carries_of_dec_eq_some h)
  have hid : 3 ≤ idDigits m.extended := by cases m.extended <;> decide
  rw [frameBytes_length, hf.idWidth]
  omega

/-- Six bytes for each push made, and the stored bytes the next push can use before its CR, of which only the first five
count: a pass starts with at most five that it has not itself consumed (C6). -/
def State.pushCredit (s : State) : Nat := 6 * s.draws + min s.fill 5

theorem State.store_fill_le_succ (s : State) (b : Byte) : (s.store b).fill ≤ s.fill + 1 := by
  by_cases hroom : s.fill < s.cfg.asmCap - 1
  · rw [State.store_of_room hroom]
    exact le_rfl
  · rw [State.store_of_full hroom]
    exact Nat.le_succ _

/-- The end of a segment adds a push only where at least six bytes are stored (R206). -/
theorem State.endSegment_pushCredit_le (s : State) : s.endSegment.pushCredit ≤ 6 * s.draws + min s.fill 6 := by
  cases hd : dec s.pad s.segment with
  | none =>
    rw [State.endSegment_of_none hd]
    simp [State.pushCredit]
  | some m =>
    have hlong : 6 ≤ s.fill := s.segment_length ▸ six_le_length_of_dec_eq_some hd
    rw [State.endSegment_of_some hd]
    simp only [State.pushCredit, State.emptyAsm_draws, State.drawn_draws, State.push_draws, State.emptyAsm_fill]
    omega

/-- Each byte pays for one sixth of a push. -/
theorem State.pbyte_pushCredit_le (s : State) (b : Byte) : (s.pbyte b).pushCredit ≤ s.pushCredit + 1 := by
  have hfill := s.store_fill_le_succ b
  have hdraws := s.store_draws b
  by_cases hb : b = crByte
  · subst hb
    have hend := (s.store crByte).endSegment_pushCredit_le
    rw [State.pbyte_cr]
    simp only [State.pushCredit] at hend ⊢
    omega
  · rw [State.pbyte_of_ne s hb]
    simp only [State.pushCredit]
    omega

theorem State.foldl_pbyte_pushCredit_le (s : State) (bs : List Byte) :
    (bs.foldl State.pbyte s).pushCredit ≤ s.pushCredit + bs.length := by
  induction bs generalizing s with
  | nil => exact le_rfl
  | cons b bs ih =>
    have hhead := s.pbyte_pushCredit_le b
    have htail := ih (s.pbyte b)
    rw [List.foldl_cons, List.length_cons]
    omega

/-- Settles O52: a push costs six bytes, and at most five stored before the pass and `M - 1` new ones (R203) count. -/
theorem passPushesAreBounded : Obligations.PassPushesAreBounded := by
  intro s hi
  have hcap := hi.cfg.trxCap
  have hcount : newByteCount s.trxCur s.lastCur s.cfg.trxCap < s.cfg.trxCap := Nat.mod_lt _ (by omega)
  have hcredit := s.foldl_pbyte_pushCredit_le s.newBytes
  rw [State.newBytes_length] at hcredit
  rw [State.pass_eq_commitCursor, State.commitCursor_draws]
  simp only [State.pushCredit] at hcredit
  omega

/-! ### The block that waits (R301) -/

theorem step_of_inputs_eq_nil (hin : s.inputs = []) : step s = .next s := by
  simp only [step, fetch, hin]

/-- Settles O55: the reset values are the definition's, the idle step is the fetch's, and received bytes arrive. -/
theorem resetStateAndIdleBlock : Obligations.ResetStateAndIdleBlock := by
  refine ⟨rfl, rfl, rfl, rfl, rfl, rfl, fun s => step_of_inputs_eq_nil, fun s t bytes rest hin h => ?arrival⟩
  case arrival =>
    rw [step_of_inputs_eq_rx hin] at h
    obtain rfl := Host.Outcome.next.inj h
    exact State.receive_frame _ bytes

end Sys2Proof.Machine
end

section
/-! SUPPORT. Words decoded by way of the encoder: a word that is some well-formed instruction's encoding decodes to that
instruction (30_encoding.md sections 3 and 6; entry 14). -/

namespace Sys2Proof

theorem decode_of_encode_eq {bytes : List Byte} {i : Instr} (henc : encode i = bytes) (hw : i.wellFormed = true) :
    decode bytes = .ok i :=
  henc ▸ decodeOfEncodedInstruction i hw

/-- Settles O20: each of the ten words is, byte for byte, the encoding of its well-formed instruction. -/
theorem sampleWordsDecode : Obligations.SampleWordsDecode := by
  unfold Obligations.SampleWordsDecode
  and_intros
  all_goals exact decode_of_encode_eq rfl rfl

end Sys2Proof
end
